-- ==== Sys2Proof/Word.lean ====
section
/-! DEFINITION. The widths the block uses (00_scope.md R10, R11). -/

namespace Sys2Proof

/-- A sample, an index or a packed byte: 8 bits (R10). -/
abbrev Byte := BitVec 8

/-- A width or height field: 16 bits (R11). -/
abbrev Half := BitVec 16

/-- A register or a command word: 32 bits (10_state.md R22, 30_encoding.md R70). -/
abbrev Word := BitVec 32

end Sys2Proof
end

