-- ==== Sys2Proof/Syntax.lean ====
section
/-! DEFINITION. The ten commands of the opcode table (30_encoding.md R74). -/

namespace Sys2Proof

/-- A command, one constructor per row of the opcode table. The bit depth `d` of LAYOUT, QUANT and
PACK is the number in the D field, unscaled (R72); a number the D field cannot hold is excluded by
`Instr.wf`, and a number the command does not accept is an operand error of its meaning, not of its
encoding (R72). Every other operand is a register (R73). -/
inductive Instr where
  | nop
  | clear
  | layout (d : Nat)
  | quant (d : Nat)
  | pack (d : Nat)
  | bitmap
  | atlasBegin
  | cell
  | atlasEnd
  | metrics
  deriving DecidableEq, Repr

end Sys2Proof
end

