-- ==== Sys2Proof/WellFormed.lean ====
section
/-! DEFINITION. Which commands have an encoding (30_encoding.md R71, R72). -/

namespace Sys2Proof

/-- The command has an encoding: its depth, if it takes one, fits the 4-bit D field (R71). All 16
values of D are encodings (R72, R77). -/
def Instr.wf : Instr → Bool
  | .nop => true
  | .clear => true
  | .layout d => decide (d < 16)
  | .quant d => decide (d < 16)
  | .pack d => decide (d < 16)
  | .bitmap => true
  | .atlasBegin => true
  | .cell => true
  | .atlasEnd => true
  | .metrics => true

end Sys2Proof
end

