-- ==== Sys2Proof/Decode.lean ====
section
/-! DEFINITION. The decoder of command words (30_encoding.md R75) and, after it, the encoder (R74). -/

namespace Sys2Proof

/-- Why a word is Illegal: the three kinds of R76, in the order R75 tests them. -/
inductive Illegal where
  /-- RSV, bits [31:12], is not 0. -/
  | reservedBits
  /-- OP, bits [7:0], is no row of R74. -/
  | unlistedOpcode
  /-- D, bits [11:8], is not 0 and the opcode takes no depth. -/
  | unexpectedDepth
  deriving DecidableEq, Repr

/-- OP, bits [7:0] (R71). -/
def opField (w : Word) : Nat := (w.extractLsb' 0 8).toNat

/-- D, bits [11:8] (R71). -/
def dField (w : Word) : Nat := (w.extractLsb' 8 4).toNat

/-- RSV, bits [31:12] (R71). -/
def rsvField (w : Word) : Nat := (w.extractLsb' 12 20).toNat

/-- A command that takes no depth: its D must be 0 (R75). -/
def fixedCommand (w : Word) (i : Instr) : Except Illegal Instr :=
  if dField w ≠ 0 then .error .unexpectedDepth else .ok i

/-- The command of a word whose RSV is 0: the opcode map of R74, in the order of R75. -/
def decodeOpcode (w : Word) : Except Illegal Instr :=
  match opField w with
  | 0x00 => fixedCommand w .nop
  | 0x01 => fixedCommand w .clear
  | 0x10 => .ok (.layout (dField w))
  | 0x20 => .ok (.quant (dField w))
  | 0x21 => .ok (.pack (dField w))
  | 0x22 => fixedCommand w .bitmap
  | 0x30 => fixedCommand w .atlasBegin
  | 0x31 => fixedCommand w .cell
  | 0x32 => fixedCommand w .atlasEnd
  | 0x40 => fixedCommand w .metrics
  | _ => .error .unlistedOpcode

/-- The decoder of R75, total on every word. It depends on the word alone. -/
def decode (w : Word) : Except Illegal Instr :=
  if rsvField w ≠ 0 then .error .reservedBits else decodeOpcode w

/-- The opcode of a command (R74). -/
def opcodeOf : Instr → Word
  | .nop => 0x00
  | .clear => 0x01
  | .layout _ => 0x10
  | .quant _ => 0x20
  | .pack _ => 0x21
  | .bitmap => 0x22
  | .atlasBegin => 0x30
  | .cell => 0x31
  | .atlasEnd => 0x32
  | .metrics => 0x40

/-- The number in the D field of a command's word (R71, R72). -/
def depthOf : Instr → Nat
  | .layout d => d
  | .quant d => d
  | .pack d => d
  | .nop | .clear | .bitmap | .atlasBegin | .cell | .atlasEnd | .metrics => 0

/-- The word of a well-formed command (R71, R74). -/
def encode (i : Instr) : Word := (BitVec.ofNat 4 (depthOf i)).setWidth 32 <<< 8 ||| opcodeOf i

/-- The instruction the decoder reads from an instruction of `nbits` bits whose bits are `w`. The
command word is the value of the register write (R70), so its bits are numbered as the table's. -/
def decodeTableWord (nbits w : Nat) : Option Instr :=
  match decode (BitVec.ofNat 32 (w % 2 ^ nbits)) with
  | .ok i => some i
  | .error _ => none

end Sys2Proof
end

