-- ==== Sys2Proof/Config.lean ====
section
/-! DEFINITION. What an implementation fixes (00_scope.md R9), and the free values. -/

namespace Sys2Proof

/-- The implementation parameters of R9. A state carries the parameters of the machine it is a state
of (log 4), and no step changes them. RENDER_SEP is host side and not modelled (R8). -/
structure Params where
  /-- Host byte address of the aperture. -/
  blockBase : Nat
  srcCap : Nat
  idxCap : Nat
  bmpCap : Nat
  atlasCap : Nat
  /-- The format_id emitted for 4 bpp. -/
  fmtL4 : Word
  /-- The format_id emitted for 8 bpp. -/
  fmtL8 : Word
  deriving DecidableEq, Repr

/-- The legal values of the parameters (R9). -/
structure Params.Legal (P : Params) : Prop where
  base : P.blockBase % 0x800000 = 0
  src : 1 ≤ P.srcCap ∧ P.srcCap ≤ 0x100000
  idx : 1 ≤ P.idxCap ∧ P.idxCap ≤ 0x100000
  bmp : 1 ≤ P.bmpCap ∧ P.bmpCap ≤ 0x100000
  atlas : P.atlasCap ≤ 0x100000
  fmt : P.fmtL8 ≠ P.fmtL4

/-- DESIGN CHOICE (log 4): the parameters of `State.reset`. The format ids are the spec's defaults
(R9); it leaves the capacities and the base OPEN, and these are the capacities of its test vectors
(95_test_vectors.md) with base 0. No obligation rests on them. -/
def Params.vectors : Params where
  blockBase := 0
  srcCap := 4096
  idxCap := 4096
  bmpCap := 4096
  atlasCap := 4096
  fmtL4 := 2
  fmtL8 := 3

/-- The free value of a byte of a buffer that nothing has written since reset (10_state.md R41): the
k-th byte drawn. It has no body, so nothing is known of it; the draws of two reads are of different
k, so they may differ (R41; log 3). -/
opaque Config.drawByte : Nat → Byte

end Sys2Proof
end

