-- ==== Sys2Proof/Machine/State.lean ====
section
/-! DEFINITION. The state of the block (10_state.md), the host's events, and why a step may stop.

A register's reserved bits are not stored: they read 0 and ignore writes (R22). -/

namespace Sys2Proof.Machine

/-- A buffer's contents: the bytes written since reset, as (offset, byte) pairs (R40). An unlisted
offset holds no known value and reads as a draw (R41; log 3). -/
abbrev Memory := List Host.Cell

/-- The canonical form: offsets strictly rising. An unlisted offset reads as no fixed byte, so no
entry can equal what it would read as. -/
abbrev Memory.wf (m : Memory) : Prop := m.Pairwise (fun c d => c.1 < d.1)

/-- STATUS (R24), less its reserved bits. -/
structure Status where
  busy : Bool
  err : Bool
  layoutValid : Bool
  fmtValid : Bool
  atlasActive : Bool
  atlasDone : Bool
  metValid : Bool
  errCode : Byte
  deriving DecidableEq, Repr

/-- The two bits of IRQ_EN (R26) and of IRQ_PEND (R27): bit 0, completion; bit 1, fault. -/
structure IrqBits where
  done : Bool
  err : Bool
  deriving DecidableEq, Repr

/-- The configuration and operand registers: written by the host only, by no command (R35). -/
structure OperandRegs where
  /-- CFG_WIDTH.W (R28). -/
  cfgWidth : Half
  /-- CFG_HEIGHT.H (R29). -/
  cfgHeight : Half
  /-- CFG_ADVANCE.ADV (R30). -/
  cfgAdvance : Byte
  /-- RANGE.START (R32). -/
  rangeStart : Byte
  /-- RANGE.END (R32). -/
  rangeEnd : Byte
  /-- RSET0 .. RSET3: the render set (R31). -/
  rset0 : Word
  rset1 : Word
  rset2 : Word
  rset3 : Word
  /-- SRC_OFF, IDX_OFF, LEN (R33). -/
  srcOff : Word
  idxOff : Word
  len : Word
  deriving DecidableEq, Repr

/-- The layout registers: written by LAYOUT only (R37). -/
structure LayoutRegs where
  padw : Word
  stride : Word
  fmt : Word
  layoutBd : BitVec 4
  layoutWidth : Half
  deriving DecidableEq, Repr

/-- The size of a bus access. 8, 16 and 32 bits are the sizes the block knows (20_memory.md R52,
R53); every other size is one value here, since all are refused alike. -/
inductive Width where
  | w8
  | w16
  | w32
  | other
  deriving DecidableEq, Repr

/-- A host bus access at a host byte address (20_memory.md R50). A write's value stands in the low
bits of a word; the bits above its width are not on the bus (log 9). -/
inductive Access where
  | read (w : Width) (addr : Nat)
  | write (w : Width) (addr : Nat) (value : Word)
  deriving DecidableEq, Repr

/-- What the outside can do between two steps (70_reset_and_hazards.md R207; log 1). -/
inductive HostEvent where
  /-- The host issues nothing this turn; a latched command, if any, is stepped. -/
  | idle
  /-- The reset input is asserted (70_reset_and_hazards.md R190). -/
  | reset
  /-- The host issues an access. -/
  | access (a : Access)
  deriving DecidableEq, Repr

/-- What a completed access gives the host (log 2). -/
inductive Response where
  /-- A read's value, zero-extended to 32 bits. -/
  | data (v : Word)
  /-- A write was performed, or ignored without error. -/
  | done
  /-- The access was refused (20_memory.md R54). -/
  | busError
  deriving DecidableEq, Repr

/-- The state (R20): register file, five buffers and hidden state; then the model's own fields. The
IRQ output is a function of it (60_exceptions.md R175). -/
structure State where
  /-- The implementation parameters of this machine; no step changes them (00_scope.md R9; log 4). -/
  params : Params
  /-- CMD_LATCH (R45). The BUSY latch is `status.busy`. -/
  cmdLatch : Word
  status : Status
  /-- ERRCMD (R25). -/
  errCmd : Word
  /-- IRQ_EN (R26). -/
  irqEn : IrqBits
  /-- IRQ_PEND (R27). -/
  irqPend : IrqBits
  op : OperandRegs
  layout : LayoutRegs
  /-- BYTE_COUNT (R38). -/
  byteCount : Word
  /-- NEXT_CODE (R39). -/
  nextCode : Byte
  /-- ATLAS_BASE (R39). -/
  atlasBase : Word
  /-- The five buffers (R40). -/
  src : Memory
  idx : Memory
  bmp : Memory
  atlas : Memory
  met : Memory
  /-- MODEL: the host's events still to come, oldest first (log 1). -/
  inputs : List HostEvent
  /-- MODEL: what completed accesses gave the host, oldest first (log 2). -/
  responses : List Response
  /-- MODEL: how many free bytes have been drawn (log 3). -/
  draws : Nat
  deriving DecidableEq, Repr

/-- Why a step stops with a fault. The engine's own faults (60_exceptions.md R165) are next states,
and a bus error is a response; neither is here. -/
inductive Fault where
  /-- Raised by a host access at an address outside the aperture: no access to the block, so it has
  no move (70_reset_and_hazards.md R207; log 7). Safe: nothing is claimed of what the platform does. -/
  | outsideAperture (addr : Nat)
  /-- Raised by CELL when LAYOUT_BD is neither 4 nor 8, where pack_d has no meaning
  (41_quantize_pack.md R105). No run reaches it, since ATLAS_BEGIN checks the depth and LAYOUT is
  refused in an open atlas (log 8). Safe. -/
  | cellWithoutPacker
  deriving DecidableEq, Repr

/-- Why an instruction has no meaning. -/
inductive Refusal where
  /-- Raised by an arm of `exec` that is not modelled yet; this model has none. Safe. -/
  | notModelled (mnemonic : String)
  deriving DecidableEq, Repr

/-- What executing a command or taking a step gives. -/
abbrev Result := Host.Outcome State Fault Refusal

/-- The state right after reset on a machine with parameters `P` (R46): every register 0 and nothing
known of any buffer byte (R41). -/
def State.resetOf (P : Params) : State where
  params := P
  cmdLatch := 0
  status := ⟨false, false, false, false, false, false, false, 0⟩
  errCmd := 0
  irqEn := ⟨false, false⟩
  irqPend := ⟨false, false⟩
  op := ⟨0, 0, 0, 0, 0, 0, 0, 0, 0, 0, 0, 0⟩
  layout := ⟨0, 0, 0, 0, 0⟩
  byteCount := 0
  nextCode := 0
  atlasBase := 0
  src := []
  idx := []
  bmp := []
  atlas := []
  met := []
  inputs := []
  responses := []
  draws := 0

/-- The state right after reset, on the machine of `Params.vectors` (log 4). -/
def State.reset : State := State.resetOf Params.vectors

end Sys2Proof.Machine
end

