-- ==== Sys2Proof/Machine/Flags.lean ====
section
/-! DEFINITION. STATUS as a word, the fault codes, the flags commands write, and the interrupt. -/

namespace Sys2Proof.Machine

/-- The value a read of STATUS returns (10_state.md R24): its fields at their bits, the reserved bits
0. -/
def statusWord (st : Status) : Word :=
  0#16 ++ st.errCode ++ 0#1 ++ BitVec.ofBool st.metValid ++ BitVec.ofBool st.atlasDone ++
    BitVec.ofBool st.atlasActive ++ BitVec.ofBool st.fmtValid ++ BitVec.ofBool st.layoutValid ++
    BitVec.ofBool st.err ++ BitVec.ofBool st.busy

/-- The value a read of IRQ_EN or IRQ_PEND returns (10_state.md R26, R27). -/
def irqWord (b : IrqBits) : Word := 0#30 ++ BitVec.ofBool b.err ++ BitVec.ofBool b.done

/-- The faults of the engine (60_exceptions.md R162). -/
inductive FaultCode where
  | badCommand
  | unsupportedBitDepth
  | noMatchingLayout
  | emptyRenderSet
  | noLayout
  | badRange
  | renderSetOutsideRange
  | bufferOverflow
  | sequenceError
  | indexRange
  | badGeometry
  deriving DecidableEq, Repr

/-- The number of a fault, as written to STATUS.ERRCODE (60_exceptions.md R162). -/
def errCodeOf : FaultCode → Byte
  | .badCommand => 0x01
  | .unsupportedBitDepth => 0x02
  | .noMatchingLayout => 0x03
  | .emptyRenderSet => 0x04
  | .noLayout => 0x05
  | .badRange => 0x06
  | .renderSetOutsideRange => 0x07
  | .bufferOverflow => 0x08
  | .sequenceError => 0x09
  | .indexRange => 0x0A
  | .badGeometry => 0x0B

/-- STATUS on fault entry (60_exceptions.md R165). -/
def faultStatus (code : FaultCode) (st : Status) : Status :=
  { st with
    err := true, errCode := errCodeOf code, atlasActive := false, atlasDone := false,
    metValid := false, busy := false }

/-- STATUS as CLEAR leaves it, before completion (44_control.md R151). -/
def clearedStatus (st : Status) : Status :=
  { st with err := false, errCode := 0, atlasActive := false, atlasDone := false, metValid := false }

/-- STATUS as LAYOUT leaves it, before completion (40_layout.md R90): `hasFmt` says d ∈ {4, 8}. -/
def layoutStatus (hasFmt : Bool) (st : Status) : Status :=
  { st with fmtValid := hasFmt, layoutValid := true, metValid := false, atlasDone := false }

/-- STATUS as ATLAS_BEGIN leaves it, before completion (42_atlas.md R120). -/
def atlasOpenStatus (st : Status) : Status := { st with atlasActive := true, atlasDone := false }

/-- STATUS as ATLAS_END leaves it, before completion (42_atlas.md R130). -/
def atlasClosedStatus (st : Status) : Status := { st with atlasActive := false, atlasDone := true }

/-- STATUS as METRICS leaves it, before completion (43_metrics.md R140). -/
def metricsStatus (st : Status) : Status := { st with metValid := true }

/-- The interrupt output, active high (60_exceptions.md R175). -/
def State.irq (s : State) : Bool :=
  (s.irqEn.done && s.irqPend.done) || (s.irqEn.err && s.irqPend.err)

end Sys2Proof.Machine
end

