-- ==== Sys2Proof/Machine/Pixels.lean ====
section
/-! DEFINITION. The pure functions of the data path: padded width and stride (40_layout.md), the
quantizer, the packer and row padding (41_quantize_pack.md), and little-endian bytes. -/

namespace Sys2Proof.Machine

/-- A bit depth the source gives meaning to (30_encoding.md R72). -/
inductive Depth where
  | one
  | four
  | eight
  deriving DecidableEq, Repr

/-- A bit depth the packer accepts (41_quantize_pack.md R105). -/
inductive PackDepth where
  | four
  | eight
  deriving DecidableEq, Repr

/-- The number of bits of a depth. -/
def Depth.bits : Depth → Nat
  | .one => 1
  | .four => 4
  | .eight => 8

/-- The depth of a number in {1, 4, 8}. -/
def Depth.ofNat? : Nat → Option Depth
  | 1 => some .one
  | 4 => some .four
  | 8 => some .eight
  | _ => none

/-- A packer depth as a depth. -/
def PackDepth.depth : PackDepth → Depth
  | .four => .four
  | .eight => .eight

/-- The packer depth of a number in {4, 8}. -/
def PackDepth.ofNat? : Nat → Option PackDepth
  | 4 => some .four
  | 8 => some .eight
  | _ => none

/-- Division rounded up, for b > 0 (00_scope.md R12). -/
def ceilDiv (a b : Nat) : Nat := (a + b - 1) / b

/-- The padded width of `w` pixels at `d` bits (40_layout.md R90), over the naturals (R94). -/
def paddedWidth (w d : Nat) : Nat := ceilDiv (w * d) 8 * 8 / d

/-- The linestride in bytes of `w` pixels at `d` bits (40_layout.md R90). -/
def lineStride (w d : Nat) : Nat := paddedWidth w d * d / 8

/-- The quantizer of one sample (41_quantize_pack.md R100). -/
def quantize : Depth → Byte → Byte
  | .eight, x => x
  | .four, x => BitVec.ofNat 8 ((x.toNat * 15 + 135) >>> 8)
  | .one, x => x >>> 7

/-- Two indices in one byte, the first in the high nibble (41_quantize_pack.md R105, R108). -/
def packPair (hi lo : Byte) : Byte := hi <<< 4 ||| lo

/-- The 4-bpp packer: pairs in order, an odd tail paired with index 0 (41_quantize_pack.md R105). -/
def packNibbles : List Byte → List Byte
  | [] => []
  | [a] => [packPair a 0]
  | a :: b :: rest => packPair a b :: packNibbles rest

/-- The packer (41_quantize_pack.md R105). -/
def pack : PackDepth → List Byte → List Byte
  | .eight, a => a
  | .four, a => packNibbles a

/-- How many bytes `n` indices pack to (41_quantize_pack.md R107). -/
def packedLength : PackDepth → Nat → Nat
  | .eight, n => n
  | .four, n => ceilDiv n 2

/-- Row padding (41_quantize_pack.md R111): `h` rows of `w` indices, each padded on the right with
index 0 to width `p`. -/
def rowPad (w p : Nat) : Nat → List Byte → List Byte
  | 0, _ => []
  | h + 1, q => q.take w ++ (List.replicate (p - w) 0 ++ rowPad w p h (q.drop w))

/-- The packed bytes of `h` rows of `w` samples under padded width `p`: quantized, row-padded, packed
(41_quantize_pack.md R110). -/
def packImage (d : PackDepth) (w h p : Nat) (x : List Byte) : List Byte :=
  pack d (rowPad w p h (x.map (quantize d.depth)))

/-- The `n` bytes of a value, least significant first (20_memory.md R55). -/
def bytesOf : Nat → Word → List Byte
  | 0, _ => []
  | n + 1, v => v.setWidth 8 :: bytesOf n (v >>> 8)

/-- The value of some bytes, least significant first (20_memory.md R55). -/
def valueOf : List Byte → Word
  | [] => 0
  | b :: rest => valueOf rest <<< 8 ||| b.setWidth 32

/-- LE32 (00_scope.md R12). -/
def le32 (v : Word) : List Byte := bytesOf 4 v

end Sys2Proof.Machine
end

