-- ==== Sys2Proof/Machine/Operands.lean ====
section
/-! DEFINITION. The operands of the commands (30_encoding.md R73): the render set, the range, the
geometry, and the buffer bounds. Sums and products are exact over the naturals
(60_exceptions.md R171). -/

namespace Sys2Proof.Machine

/-- RSET(c): code `c` is in the render set (10_state.md R31). A code above 127 is in no register, so
in no set (log 10). -/
def OperandRegs.rset (o : OperandRegs) (c : Nat) : Bool :=
  match c / 32 with
  | 0 => o.rset0.getLsbD (c % 32)
  | 1 => o.rset1.getLsbD (c % 32)
  | 2 => o.rset2.getLsbD (c % 32)
  | 3 => o.rset3.getLsbD (c % 32)
  | _ => false

/-- range_legal (42_atlas.md R121). -/
def OperandRegs.rangeLegal (o : OperandRegs) : Bool :=
  decide (o.rangeStart.toNat ≤ o.rangeEnd.toNat ∧ o.rangeEnd.toNat ≤ 127)

/-- rset_empty (42_atlas.md R121). -/
def OperandRegs.rsetEmpty (o : OperandRegs) : Bool :=
  o.rset0 == 0 && o.rset1 == 0 && o.rset2 == 0 && o.rset3 == 0

/-- rset_in_range (42_atlas.md R121). -/
def OperandRegs.rsetInRange (o : OperandRegs) : Bool :=
  (List.range 128).all fun c =>
    !o.rset c || decide (o.rangeStart.toNat ≤ c ∧ c ≤ o.rangeEnd.toNat)

/-- N_codes (42_atlas.md R121). -/
def OperandRegs.nCodes (o : OperandRegs) : Nat := o.rangeEnd.toNat - o.rangeStart.toNat + 1

/-- The requested width the current layout was computed from (10_state.md R37). -/
def State.width (s : State) : Nat := s.layout.layoutWidth.toNat

/-- The height (10_state.md R29). -/
def State.height (s : State) : Nat := s.op.cfgHeight.toNat

/-- PADW (10_state.md R37). -/
def State.padw (s : State) : Nat := s.layout.padw.toNat

/-- STRIDE (10_state.md R37). -/
def State.stride (s : State) : Nat := s.layout.stride.toNat

/-- The bytes of one packed cell or image: STRIDE * H (00_scope.md R13). -/
def State.cellBytes (s : State) : Nat := s.stride * s.height

/-- The samples of one glyph or image. -/
def State.sampleCount (s : State) : Nat := s.width * s.height

/-- The index, within the atlas, of the cell the next CELL emits (42_atlas.md R125). -/
def State.cellIndex (s : State) : Nat := s.nextCode.toNat - s.op.rangeStart.toNat

/-- The format_id of a layout at a depth (40_layout.md R90, R95). -/
def formatId (P : Params) : Depth → Word
  | .one => 0
  | .four => P.fmtL4
  | .eight => P.fmtL8

/-- A buffer (10_state.md R40). -/
inductive Buffer where
  | src
  | idx
  | bmp
  | atlas
  | met
  deriving DecidableEq, Repr

/-- The capacity of a buffer in bytes (10_state.md R40). -/
def capacity (P : Params) : Buffer → Nat
  | .src => P.srcCap
  | .idx => P.idxCap
  | .bmp => P.bmpCap
  | .atlas => P.atlasCap
  | .met => 148

/-- The range [off, off + n) of a buffer is in bounds (60_exceptions.md R171). -/
def inBounds (P : Params) (b : Buffer) (off n : Nat) : Bool := decide (off + n ≤ capacity P b)

end Sys2Proof.Machine
end

