-- ==== Sys2Proof/Machine/Ops.lean ====
section
/-! DEFINITION. The shared operations: buffers (20_memory.md R58, R59), how a command completes,
faults or is dropped (60_exceptions.md R160, R165, R166), and the return from a fault (R167). -/

namespace Sys2Proof.Machine

/-! ### One buffer -/

/-- The byte written at an offset, if any. -/
def Memory.get? (m : Memory) (a : Nat) : Option Byte :=
  match m with
  | [] => none
  | (k, b) :: rest => if k = a then some b else Memory.get? rest a

/-- Consecutive cells from an offset. -/
def cellsAt (off : Nat) : List Byte → List Host.Cell
  | [] => []
  | b :: rest => (off, b) :: cellsAt (off + 1) rest

/-- Write consecutive bytes at an offset (20_memory.md R58), keeping the offsets strictly rising. -/
def Memory.write (m : Memory) (off : Nat) (v : List Byte) : Memory :=
  m.filter (fun c => decide (c.1 < off)) ++
    (cellsAt off v ++ m.filter (fun c => decide (off + v.length ≤ c.1)))

/-- The byte read at an offset: the one written last, or, where nothing was written since reset, the
`k`-th draw (10_state.md R41; log 3). -/
def Memory.byteOr (m : Memory) (a k : Nat) : Byte := (m.get? a).getD (Config.drawByte k)

/-! ### The buffers of the block -/

/-- The contents of a buffer. -/
def State.buf (s : State) : Buffer → Memory
  | .src => s.src
  | .idx => s.idx
  | .bmp => s.bmp
  | .atlas => s.atlas
  | .met => s.met

/-- Replace the contents of a buffer. -/
def State.setBuf (s : State) (b : Buffer) (m : Memory) : State :=
  match b with
  | .src => { s with src := m }
  | .idx => { s with idx := m }
  | .bmp => { s with bmp := m }
  | .atlas => { s with atlas := m }
  | .met => { s with met := m }

/-- The bytes MemRead returns (20_memory.md R58): byte i, if unwritten, is the draw numbered by i. -/
def memRead (b : Buffer) (off n : Nat) (s : State) : List Byte :=
  (List.range n).map fun i => (s.buf b).byteOr (off + i) (s.draws + i)

/-- The draws of a read of `n` bytes are used up: no later read has the same ones (log 3). -/
def drawn (n : Nat) (s : State) : State := { s with draws := s.draws + n }

/-- MemWrite (20_memory.md R58). -/
def memWrite (b : Buffer) (off : Nat) (v : List Byte) (s : State) : State :=
  s.setBuf b ((s.buf b).write off v)

/-- Append (20_memory.md R59): write at BYTE_COUNT in BMP, and count the bytes. The count wraps at 32
bits only in states no run reaches (log 12). -/
def append (v : List Byte) (s : State) : State :=
  { memWrite .bmp s.byteCount.toNat v s with
    byteCount := BitVec.ofNat 32 (s.byteCount.toNat + v.length) }

/-! ### How a command ends -/

/-- A command completes (60_exceptions.md R160). -/
def complete (s : State) : State :=
  { s with status := { s.status with busy := false }, irqPend := { s.irqPend with done := true } }

/-- Fault entry (60_exceptions.md R165): the block's one way of taking an exception. ERRCMD gets the
latched word (10_state.md R25). -/
def faultEntry (code : FaultCode) (s : State) : State :=
  { s with
    status := faultStatus code s.status, errCmd := s.cmdLatch,
    irqPend := { s.irqPend with err := true } }

/-- A latched word is dropped while STATUS.ERR = 1 (60_exceptions.md R166). -/
def dropCommand (s : State) : State := { s with status := { s.status with busy := false } }

/-- The return from a fault and the start of a run (60_exceptions.md R167, 44_control.md R151), before
completion. -/
def clearRun (s : State) : State :=
  { s with status := clearedStatus s.status, errCmd := 0, byteCount := 0, nextCode := 0, atlasBase := 0 }

/-- `raise F(code)` (00_scope.md R12): the command ends as a fault, which is a next state. -/
def raiseFault (code : FaultCode) (s : State) : Result := .next (faultEntry code s)

/-- The command completes with this state. -/
def succeed (s : State) : Result := .next (complete s)

end Sys2Proof.Machine
end

