-- ==== Sys2Proof/Machine/Atlas.lean ====
section
/-! DEFINITION. The glyph-atlas commands ATLAS_BEGIN, CELL and ATLAS_END (42_atlas.md). -/

namespace Sys2Proof.Machine

/-- The effect of ATLAS_BEGIN before completion (R120): the preview zeroed, the atlas opened. -/
def openAtlas (s : State) : State :=
  { memWrite .atlas 0 (List.replicate (s.padw * s.height * s.op.nCodes) 0) s with
    atlasBase := s.byteCount, nextCode := s.op.rangeStart, status := atlasOpenStatus s.status }

/-- ATLAS_BEGIN (R120). -/
def execAtlasBegin (s : State) : Result :=
  if s.status.atlasActive then raiseFault .sequenceError s
  else if !s.status.layoutValid then raiseFault .noLayout s
  else if (PackDepth.ofNat? s.layout.layoutBd.toNat).isNone then raiseFault .unsupportedBitDepth s
  else if !s.op.rangeLegal then raiseFault .badRange s
  else if s.op.rsetEmpty then raiseFault .emptyRenderSet s
  else if !s.op.rsetInRange then raiseFault .renderSetOutsideRange s
  else if s.width = 0 ∨ s.height = 0 then raiseFault .badGeometry s
  else if !inBounds s.params .bmp s.byteCount.toNat (s.stride * s.height * s.op.nCodes) ||
      !inBounds s.params .atlas 0 (s.padw * s.height * s.op.nCodes) then
    raiseFault .bufferOverflow s
  else succeed (openAtlas s)

/-- The preview of one rendered cell (R125, R127): rows of `w` samples at row pitch `p`, written row by
row (log 13). -/
def previewRows (p w : Nat) : Nat → Nat → List Byte → Memory → Memory
  | 0, _, _, m => m
  | h + 1, off, x, m => previewRows p w h (off + p) (x.drop w) (m.write off (x.take w))

/-- The next code (R125). It wraps at 8 bits only in states no run reaches (log 12). -/
def advanceCode (s : State) : State := { s with nextCode := s.nextCode + 1 }

/-- The Rendered arm's effect before completion (R125): the packed cell appended to BMP, the samples
composited into ATLAS, the next code. -/
def emitRendered (d : PackDepth) (x : List Byte) (s : State) : State :=
  let t := append (packImage d s.width s.height s.padw x) s
  advanceCode { t with
    atlas := previewRows s.padw s.width s.height (s.cellIndex * s.height * s.padw) x s.atlas }

/-- The Missing arm's effect before completion (R125, R126): an all-zero cell, the next code. -/
def emitMissing (s : State) : State := advanceCode (append (List.replicate s.cellBytes 0) s)

/-- CELL (R125). The arm is chosen by RSET(NEXT_CODE) (R134). The Rendered arm under a LAYOUT_BD with
no packer has no meaning in the spec, and no run reaches it (log 8). -/
def execCell (s : State) : Result :=
  if !s.status.atlasActive then raiseFault .sequenceError s
  else if s.op.rangeEnd.toNat < s.nextCode.toNat then raiseFault .sequenceError s
  else match s.op.rset s.nextCode.toNat with
    | true =>
      let n := s.sampleCount
      if !inBounds s.params .src s.op.srcOff.toNat n then raiseFault .bufferOverflow s
      else match PackDepth.ofNat? s.layout.layoutBd.toNat with
        | none => .fault .cellWithoutPacker
        | some d => succeed (emitRendered d (memRead .src s.op.srcOff.toNat n s) (drawn n s))
    | false => succeed (emitMissing s)

/-- The effect of ATLAS_END before completion (R130). -/
def closeAtlas (s : State) : State := { s with status := atlasClosedStatus s.status }

/-- ATLAS_END (R130). -/
def execAtlasEnd (s : State) : Result :=
  if !s.status.atlasActive then raiseFault .sequenceError s
  else if s.nextCode.toNat ≠ s.op.rangeEnd.toNat + 1 then raiseFault .sequenceError s
  else succeed (closeAtlas s)

end Sys2Proof.Machine
end

