-- ==== Sys2Proof/Machine/Bitmap.lean ====
section
/-! DEFINITION. The quantizer and packer commands QUANT, PACK and BITMAP (41_quantize_pack.md). -/

namespace Sys2Proof.Machine

/-- QUANT d (R102). -/
def execQuant (d : Nat) (s : State) : Result :=
  match Depth.ofNat? d with
  | none => raiseFault .unsupportedBitDepth s
  | some depth =>
    let n := s.op.len.toNat
    if !inBounds s.params .src s.op.srcOff.toNat n || !inBounds s.params .idx s.op.idxOff.toNat n then
      raiseFault .bufferOverflow s
    else
      let x := memRead .src s.op.srcOff.toNat n s
      succeed (memWrite .idx s.op.idxOff.toNat (x.map (quantize depth)) (drawn n s))

/-- The IndexRange condition of PACK (R107): an index above 15 at d = 4. -/
def indexTooLarge : PackDepth → List Byte → Bool
  | .eight, _ => false
  | .four, a => a.any fun b => decide (15 < b.toNat)

/-- PACK d (R107). The indices are read before the IndexRange check, so their draws are used up
whether it faults or not (log 3). -/
def execPack (d : Nat) (s : State) : Result :=
  if s.status.atlasActive then raiseFault .sequenceError s
  else match PackDepth.ofNat? d with
    | none => raiseFault .unsupportedBitDepth s
    | some depth =>
      let n := s.op.len.toNat
      if !inBounds s.params .idx s.op.idxOff.toNat n ||
          !inBounds s.params .bmp s.byteCount.toNat (packedLength depth n) then
        raiseFault .bufferOverflow s
      else
        let a := memRead .idx s.op.idxOff.toNat n s
        if indexTooLarge depth a then raiseFault .indexRange (drawn n s)
        else succeed (append (pack depth a) (drawn n s))

/-- BITMAP (R110). -/
def execBitmap (s : State) : Result :=
  if s.status.atlasActive then raiseFault .sequenceError s
  else if !s.status.layoutValid then raiseFault .noLayout s
  else match PackDepth.ofNat? s.layout.layoutBd.toNat with
    | none => raiseFault .unsupportedBitDepth s
    | some depth =>
      let n := s.sampleCount
      if !inBounds s.params .src s.op.srcOff.toNat n ||
          !inBounds s.params .bmp s.byteCount.toNat s.cellBytes then
        raiseFault .bufferOverflow s
      else
        let x := memRead .src s.op.srcOff.toNat n s
        succeed (append (packImage depth s.width s.height s.padw x) (drawn n s))

end Sys2Proof.Machine
end

