-- ==== Sys2Proof/Machine/Control.lean ====
section
/-! DEFINITION. The control commands NOP and CLEAR (44_control.md). -/

namespace Sys2Proof.Machine

/-- NOP (R150): completes. -/
def execNop (s : State) : Result := succeed s

/-- CLEAR (R151): ends the run and clears the fault record; the one command accepted while
STATUS.ERR = 1 (60_exceptions.md R166). -/
def execClear (s : State) : Result := succeed (clearRun s)

end Sys2Proof.Machine
end

