-- ==== Sys2Proof/Machine/Layout.lean ====
section
/-! DEFINITION. The layout command LAYOUT (40_layout.md). -/

namespace Sys2Proof.Machine

/-- The layout registers of a width at a depth (R90). -/
def layoutRegsOf (P : Params) (w : Half) (d : Depth) : LayoutRegs where
  padw := BitVec.ofNat 32 (paddedWidth w.toNat d.bits)
  stride := BitVec.ofNat 32 (lineStride w.toNat d.bits)
  fmt := formatId P d
  layoutBd := BitVec.ofNat 4 d.bits
  layoutWidth := w

/-- The effect of LAYOUT before completion (R90). -/
def setLayout (d : Depth) (s : State) : State :=
  { s with
    layout := layoutRegsOf s.params s.op.cfgWidth d,
    status := layoutStatus (d != .one) s.status }

/-- LAYOUT d (R90). -/
def execLayout (d : Nat) (s : State) : Result :=
  if s.status.atlasActive then raiseFault .sequenceError s
  else match Depth.ofNat? d with
    | none => raiseFault .unsupportedBitDepth s
    | some depth => succeed (setLayout depth s)

end Sys2Proof.Machine
end

