-- ==== Sys2Proof/Machine/Metrics.lean ====
section
/-! DEFINITION. The metrics command METRICS (43_metrics.md). -/

namespace Sys2Proof.Machine

/-- The width table (R141): one byte per code 0 .. 127. -/
def widthTable (o : OperandRegs) : List Byte :=
  (List.range 128).map fun c => if o.rset c then o.cfgAdvance else 0

/-- The 148 bytes of the metrics table (R142), from the live registers. -/
def metricsTable (s : State) : List Byte :=
  widthTable s.op ++
    (le32 s.layout.fmt ++ (le32 s.layout.stride ++ (le32 s.layout.padw ++
      (le32 (s.op.cfgHeight.setWidth 32) ++ le32 0))))

/-- The effect of METRICS before completion (R140): the whole table in one write (log 13). -/
def emitMetrics (s : State) : State :=
  { memWrite .met 0 (metricsTable s) s with status := metricsStatus s.status }

/-- METRICS (R140). -/
def execMetrics (s : State) : Result :=
  if !s.status.layoutValid then raiseFault .noLayout s
  else if !s.status.fmtValid then raiseFault .noMatchingLayout s
  else if !s.op.rangeLegal then raiseFault .badRange s
  else if s.op.rsetEmpty then raiseFault .emptyRenderSet s
  else if !s.op.rsetInRange then raiseFault .renderSetOutsideRange s
  else succeed (emitMetrics s)

end Sys2Proof.Machine
end

