-- ==== Sys2Proof/Machine/Dispatch.lean ====
section
/-! DEFINITION. The meaning of every command, one arm each. -/

namespace Sys2Proof.Machine

/-- Execute a command: its rule, up to "complete" or "raise" (60_exceptions.md R160). -/
def exec (i : Instr) (s : State) : Host.Outcome State Fault Refusal :=
  match i with
  | .nop => Sys2Proof.Machine.execNop s
  | .clear => Sys2Proof.Machine.execClear s
  | .layout d => Sys2Proof.Machine.execLayout d s
  | .quant d => Sys2Proof.Machine.execQuant d s
  | .pack d => Sys2Proof.Machine.execPack d s
  | .bitmap => Sys2Proof.Machine.execBitmap s
  | .atlasBegin => Sys2Proof.Machine.execAtlasBegin s
  | .cell => Sys2Proof.Machine.execCell s
  | .atlasEnd => Sys2Proof.Machine.execAtlasEnd s
  | .metrics => Sys2Proof.Machine.execMetrics s

end Sys2Proof.Machine
end

