-- ==== Sys2Proof/Machine/HostPort.lean ====
section
/-! DEFINITION. The host's side: the register file (10_state.md R22), the aperture (20_memory.md) and
reset (70_reset_and_hazards.md R190). -/

namespace Sys2Proof.Machine

/-! ### The register file -/

/-- The registers (10_state.md R22). -/
inductive Reg where
  | cmd
  | status
  | errCmd
  | irqEn
  | irqPend
  | cfgWidth
  | cfgHeight
  | cfgAdvance
  | range
  | rset0
  | rset1
  | rset2
  | rset3
  | srcOff
  | idxOff
  | len
  | padw
  | stride
  | fmt
  | layoutBd
  | layoutWidth
  | byteCount
  | nextCode
  | atlasBase
  deriving DecidableEq, Repr

/-- The offset of a register in the register window (10_state.md R22). -/
def regOffset : Reg → Nat
  | .cmd => 0x000
  | .status => 0x004
  | .errCmd => 0x008
  | .irqEn => 0x00C
  | .irqPend => 0x010
  | .cfgWidth => 0x014
  | .cfgHeight => 0x018
  | .cfgAdvance => 0x01C
  | .range => 0x020
  | .rset0 => 0x024
  | .rset1 => 0x028
  | .rset2 => 0x02C
  | .rset3 => 0x030
  | .srcOff => 0x034
  | .idxOff => 0x038
  | .len => 0x03C
  | .padw => 0x040
  | .stride => 0x044
  | .fmt => 0x048
  | .layoutBd => 0x04C
  | .layoutWidth => 0x050
  | .byteCount => 0x054
  | .nextCode => 0x058
  | .atlasBase => 0x05C

/-- The register at an offset; none where the window is unmapped (10_state.md R22). -/
def regAt : Nat → Option Reg
  | 0x000 => some .cmd
  | 0x004 => some .status
  | 0x008 => some .errCmd
  | 0x00C => some .irqEn
  | 0x010 => some .irqPend
  | 0x014 => some .cfgWidth
  | 0x018 => some .cfgHeight
  | 0x01C => some .cfgAdvance
  | 0x020 => some .range
  | 0x024 => some .rset0
  | 0x028 => some .rset1
  | 0x02C => some .rset2
  | 0x030 => some .rset3
  | 0x034 => some .srcOff
  | 0x038 => some .idxOff
  | 0x03C => some .len
  | 0x040 => some .padw
  | 0x044 => some .stride
  | 0x048 => some .fmt
  | 0x04C => some .layoutBd
  | 0x050 => some .layoutWidth
  | 0x054 => some .byteCount
  | 0x058 => some .nextCode
  | 0x05C => some .atlasBase
  | _ => none

/-- The value a host read of a register returns (10_state.md R23 to R39). Reserved bits read 0, CMD
reads 0. -/
def readReg (s : State) : Reg → Word
  | .cmd => 0
  | .status => statusWord s.status
  | .errCmd => s.errCmd
  | .irqEn => irqWord s.irqEn
  | .irqPend => irqWord s.irqPend
  | .cfgWidth => s.op.cfgWidth.setWidth 32
  | .cfgHeight => s.op.cfgHeight.setWidth 32
  | .cfgAdvance => s.op.cfgAdvance.setWidth 32
  | .range => 0#16 ++ s.op.rangeEnd ++ s.op.rangeStart
  | .rset0 => s.op.rset0
  | .rset1 => s.op.rset1
  | .rset2 => s.op.rset2
  | .rset3 => s.op.rset3
  | .srcOff => s.op.srcOff
  | .idxOff => s.op.idxOff
  | .len => s.op.len
  | .padw => s.layout.padw
  | .stride => s.layout.stride
  | .fmt => s.layout.fmt
  | .layoutBd => s.layout.layoutBd.setWidth 32
  | .layoutWidth => s.layout.layoutWidth.setWidth 32
  | .byteCount => s.byteCount
  | .nextCode => s.nextCode.setWidth 32
  | .atlasBase => s.atlasBase

/-- Replace the operand registers. -/
def setOp (s : State) (o : OperandRegs) : State := { s with op := o }

/-- Replace the operand registers unless an open atlas locks them (10_state.md R34). -/
def setLockedOp (s : State) (o : OperandRegs) : State := if s.status.atlasActive then s else setOp s o

/-- A write to CMD while STATUS.BUSY = 0: the word is latched and handed to the engine
(10_state.md R23). -/
def latchCommand (v : Word) (s : State) : State :=
  { s with cmdLatch := v, status := { s.status with busy := true } }

/-- The pending bits after a write of `v`: each bit written as 1 is cleared (10_state.md R27). -/
def clearPending (v : Word) (p : IrqBits) : IrqBits :=
  { done := p.done && !v.getLsbD 0, err := p.err && !v.getLsbD 1 }

/-- The enable bits written by `v` (10_state.md R26). -/
def enableBits (v : Word) : IrqBits := { done := v.getLsbD 0, err := v.getLsbD 1 }

/-- The effect of a host write of `v` to a register (10_state.md R22 to R39): a read-only register
ignores it without error. -/
def writeReg (v : Word) (s : State) : Reg → State
  | .cmd => latchCommand v s
  | .status => s
  | .errCmd => s
  | .irqEn => { s with irqEn := enableBits v }
  | .irqPend => { s with irqPend := clearPending v s.irqPend }
  | .cfgWidth => setOp s { s.op with cfgWidth := v.setWidth 16 }
  | .cfgHeight => setLockedOp s { s.op with cfgHeight := v.setWidth 16 }
  | .cfgAdvance => setOp s { s.op with cfgAdvance := v.setWidth 8 }
  | .range => setLockedOp s { s.op with rangeStart := v.extractLsb' 0 8, rangeEnd := v.extractLsb' 8 8 }
  | .rset0 => setLockedOp s { s.op with rset0 := v }
  | .rset1 => setLockedOp s { s.op with rset1 := v }
  | .rset2 => setLockedOp s { s.op with rset2 := v }
  | .rset3 => setLockedOp s { s.op with rset3 := v }
  | .srcOff => setOp s { s.op with srcOff := v }
  | .idxOff => setOp s { s.op with idxOff := v }
  | .len => setOp s { s.op with len := v }
  | .padw => s
  | .stride => s
  | .fmt => s
  | .layoutBd => s
  | .layoutWidth => s
  | .byteCount => s
  | .nextCode => s
  | .atlasBase => s

/-! ### The aperture -/

/-- The aperture offset of a host address, if it lies in the aperture (20_memory.md R50). -/
def apertureOffset (P : Params) (addr : Nat) : Option Nat :=
  if P.blockBase ≤ addr ∧ addr < P.blockBase + 0x800000 then some (addr - P.blockBase) else none

/-- A place in the aperture (20_memory.md R51): the register window, a byte offset of a buffer window
(which may lie past the buffer's capacity), or nothing. -/
inductive Place where
  | reg (off : Nat)
  | buffer (b : Buffer) (k : Nat)
  | unmapped
  deriving DecidableEq, Repr

/-- The place at an aperture offset (20_memory.md R51). An offset past a buffer's capacity is refused
by `bufferAccessOk`, as an unmapped one is. -/
def placeAt (off : Nat) : Place :=
  if off < 0x001000 then .reg off
  else if off < 0x100000 then .buffer .met (off - 0x001000)
  else if off < 0x200000 then .buffer .src (off - 0x100000)
  else if off < 0x300000 then .buffer .idx (off - 0x200000)
  else if off < 0x400000 then .buffer .bmp (off - 0x300000)
  else if off < 0x500000 then .buffer .atlas (off - 0x400000)
  else .unmapped

/-- The bytes of an access of a size the block knows (20_memory.md R53). -/
def widthBytes : Width → Option Nat
  | .w8 => some 1
  | .w16 => some 2
  | .w32 => some 4
  | .other => none

/-- A register access is of 32 bits at a multiple of 4 (20_memory.md R52). -/
def regAccessOk (w : Width) (off : Nat) : Bool := w == .w32 && decide (off % 4 = 0)

/-- A buffer access of `n` bytes is naturally aligned and inside the buffer (20_memory.md R53). -/
def bufferAccessOk (P : Params) (b : Buffer) (k n : Nat) : Bool :=
  decide (k % n = 0) && inBounds P b k n

/-- The host may write the buffer (10_state.md R40, 20_memory.md R56). -/
def hostWritable : Buffer → Bool
  | .src => true
  | .idx => true
  | .bmp => false
  | .atlas => false
  | .met => false

/-- A host read of `n` bytes of a buffer: the value, little-endian (20_memory.md R55), and the state,
in which at most draws are used up (R57; log 3). -/
def readBuffer (b : Buffer) (k n : Nat) (s : State) : Response × State :=
  (.data (valueOf (memRead b k n s)), drawn n s)

/-- A host read at an aperture offset (20_memory.md R52, R53, R57). -/
def hostRead (w : Width) (off : Nat) (s : State) : Response × State :=
  match placeAt off with
  | .unmapped => (.busError, s)
  | .reg r =>
    if regAccessOk w r then (.data (((regAt r).map (readReg s)).getD 0), s) else (.busError, s)
  | .buffer b k =>
    match widthBytes w with
    | none => (.busError, s)
    | some n => if bufferAccessOk s.params b k n then readBuffer b k n s else (.busError, s)

/-- A host write at an aperture offset (20_memory.md R52, R53, R56, R57). -/
def hostWrite (w : Width) (off : Nat) (v : Word) (s : State) : Response × State :=
  match placeAt off with
  | .unmapped => (.busError, s)
  | .reg r =>
    if regAccessOk w r then (.done, ((regAt r).map (writeReg v s)).getD s) else (.busError, s)
  | .buffer b k =>
    match widthBytes w with
    | none => (.busError, s)
    | some n =>
      if hostWritable b && bufferAccessOk s.params b k n then (.done, memWrite b k (bytesOf n v) s)
      else (.busError, s)

/-- The host address of an access. -/
def Access.addr : Access → Nat
  | .read _ a => a
  | .write _ a _ => a

/-- Perform an access whose aperture offset is `off`. -/
def performAt (off : Nat) (s : State) : Access → Response × State
  | .read w _ => hostRead w off s
  | .write w _ v => hostWrite w off v s

/-- The accesses that complete while STATUS.BUSY = 1: 32-bit reads of STATUS and of IRQ_PEND
(20_memory.md R62). -/
def completesWhileBusy (off : Nat) : Access → Bool
  | .read w _ => w == .w32 && (off == regOffset .status || off == regOffset .irqPend)
  | .write _ _ _ => false

/-! ### Events -/

/-- The head of the host's events is used up. -/
def popInput (s : State) : State := { s with inputs := s.inputs.tail }

/-- The host gets a response. -/
def respond (r : Response) (s : State) : State := { s with responses := s.responses ++ [r] }

/-- An access at the head of the host's events is performed: its event is used up, and its response is
given (20_memory.md R61; log 1, log 2). -/
def completeAccess (off : Nat) (a : Access) (s : State) : State :=
  respond (performAt off s a).1 (popInput (performAt off s a).2)

/-- Reset (70_reset_and_hazards.md R190): every register at its reset value, a latched command
discarded, every buffer unspecified. The parameters are the machine's, the host's events and responses
the host's, and draws are never reused (log 3, log 14). -/
def resetBlock (s : State) : State :=
  { State.resetOf s.params with inputs := s.inputs, responses := s.responses, draws := s.draws }

end Sys2Proof.Machine
end

