-- ==== Sys2Proof/Machine/Engine.lean ====
section
/-! DEFINITION. The engine step (60_exceptions.md R160), and the order of engine and host
(20_memory.md R62, R63). -/

namespace Sys2Proof.Machine

/-- The latched word is dropped (R166): an error is recorded and the word is not exactly CLEAR's. -/
def dropsWord (s : State) : Bool := s.status.err && s.cmdLatch != 0x00000001#32

/-- The engine's one atomic step on the latched word (R160), when STATUS.BUSY = 1. -/
def engineStep (s : State) : Result :=
  if dropsWord s then .next (dropCommand s)
  else match decode s.cmdLatch with
    | .error _ => raiseFault .badCommand s
    | .ok i => exec i s

/-- A turn in which the host issues nothing: a latched command is stepped, and an idle block stays as
it is (R160, 70_reset_and_hazards.md R191; log 6). -/
def engineTurn (s : State) : Result := if s.status.busy then engineStep s else .next s

/-- A turn in which the host has issued an access (20_memory.md R62): it completes if BUSY = 0 or it is
one of the two reads that complete at once; otherwise it is held, at the head of the events, and the
engine steps, also where it will be refused (log 15). An address outside the aperture is no access to
the block (log 7). -/
def accessTurn (a : Access) (s : State) : Result :=
  match apertureOffset s.params a.addr with
  | none => .fault (.outsideAperture a.addr)
  | some off =>
    if s.status.busy && !completesWhileBusy off a then engineStep s
    else .next (completeAccess off a s)

/-- One step of the whole block: the next host event, or the engine (log 1). -/
def nextTurn (s : State) : Result :=
  match s.inputs with
  | [] => engineTurn s
  | .idle :: _ => engineTurn (popInput s)
  | .reset :: _ => .next (resetBlock (popInput s))
  | .access a :: _ => accessTurn a s

end Sys2Proof.Machine
end

