-- ==== Sys2Proof/Machine/Step.lean ====
section
/-! DEFINITION. The step of the block, and how a command is placed for it. -/

namespace Sys2Proof.Machine

/-- One step. -/
def step (s : State) : Host.Outcome State Fault Refusal := nextTurn s

/-- `s` with a command word in CMD_LATCH and BUSY set, as a write to CMD leaves them
(10_state.md R23), so that the very next step is the engine's on that word: the host takes an idle
turn, and no recorded error is there to drop the word (60_exceptions.md R166; log 5). -/
def State.withFetchWord (s : State) (nbits w : Nat) : State :=
  { s with
    cmdLatch := BitVec.ofNat 32 (w % 2 ^ nbits),
    status := { s.status with busy := true, err := false, errCode := 0 },
    errCmd := 0,
    inputs := .idle :: s.inputs }

end Sys2Proof.Machine
end

