-- ==== Sys2Proof/Machine/HostProgram.lean ====
section
/-! DEFINITION. The host-program statements of the assembler syntax and their expansions into host
events (30_encoding.md R78, R79). -/

namespace Sys2Proof.Machine

/-- A statement or pseudo-statement (R78, R79). -/
inductive Stmt where
  /-- A command statement: `nop`, `layout d`, ... -/
  | command (i : Instr)
  /-- `wr NAME, v` -/
  | wr (r : Reg) (v : Word)
  /-- `rd NAME` -/
  | rd (r : Reg)
  /-- `wrb BUF[k], b0, b1, ...` -/
  | wrb (b : Buffer) (k : Nat) (bytes : List Byte)
  /-- `rdb BUF[k], n` -/
  | rdb (b : Buffer) (k n : Nat)
  /-- `wait`, in a run in which `polls` reads of STATUS return BUSY = 1 before one returns 0 (log 11). -/
  | wait (polls : Nat)
  /-- `range s, e` -/
  | range (s e : Nat)
  /-- `rset c1, c2, ...` -/
  | rset (codes : List Nat)
  /-- `cells n` -/
  | cells (n : Nat)
  /-- `geom w, h` -/
  | geom (w h : Nat)
  deriving DecidableEq, Repr

/-- The aperture offset of byte 0 of a buffer window (20_memory.md R51). -/
def bufferBase : Buffer → Nat
  | .met => 0x001000
  | .src => 0x100000
  | .idx => 0x200000
  | .bmp => 0x300000
  | .atlas => 0x400000

/-- A 32-bit write of a register. -/
def writeRegEvent (P : Params) (r : Reg) (v : Word) : HostEvent :=
  .access (.write .w32 (P.blockBase + regOffset r) v)

/-- A 32-bit read of a register. -/
def readRegEvent (P : Params) (r : Reg) : HostEvent :=
  .access (.read .w32 (P.blockBase + regOffset r))

/-- A write of a command's word to CMD. -/
def commandEvent (P : Params) (i : Instr) : HostEvent := writeRegEvent P .cmd (encode i)

/-- 8-bit writes of consecutive bytes of a buffer. -/
def writeByteEvents (P : Params) (b : Buffer) : Nat → List Byte → List HostEvent
  | _, [] => []
  | k, v :: rest =>
    .access (.write .w8 (P.blockBase + bufferBase b + k) (v.setWidth 32)) ::
      writeByteEvents P b (k + 1) rest

/-- The mask of the codes of a render set that stand in RSETk. -/
def rsetMask (k : Nat) : List Nat → Word
  | [] => 0
  | c :: rest => (if c / 32 = k then BitVec.twoPow 32 (c % 32) else 0) ||| rsetMask k rest

/-- The host events of a statement (R78, R79). -/
def Stmt.events (P : Params) : Stmt → List HostEvent
  | .command i => [commandEvent P i]
  | .wr r v => [writeRegEvent P r v]
  | .rd r => [readRegEvent P r]
  | .wrb b k bytes => writeByteEvents P b k bytes
  | .rdb b k n =>
    (List.range n).map fun i => .access (.read .w8 (P.blockBase + bufferBase b + (k + i)))
  | .wait polls => List.replicate polls (readRegEvent P .status) ++ [.idle, readRegEvent P .status]
  | .range s e => [writeRegEvent P .range (BitVec.ofNat 32 s ||| BitVec.ofNat 32 e <<< 8)]
  | .rset codes =>
    [writeRegEvent P .rset0 (rsetMask 0 codes), writeRegEvent P .rset1 (rsetMask 1 codes),
      writeRegEvent P .rset2 (rsetMask 2 codes), writeRegEvent P .rset3 (rsetMask 3 codes)]
  | .cells n => List.replicate n (commandEvent P .cell)
  | .geom w h =>
    [writeRegEvent P .cfgWidth (BitVec.ofNat 32 w), writeRegEvent P .cfgHeight (BitVec.ofNat 32 h)]

/-- The host events of a program. -/
def programEvents (P : Params) (p : List Stmt) : List HostEvent := p.flatMap (Stmt.events P)

end Sys2Proof.Machine
end

