-- ==== Sys2Proof/Safety.lean ====
section
/-! DEFINITION. The invariant of the block: what holds at reset and is kept by every step. -/

namespace Sys2Proof.Machine

/-- The buffers are in canonical form and inside their capacities (20_memory.md R58). -/
def BuffersOk (s : State) : Prop :=
  ∀ b : Buffer, (s.buf b).wf ∧ ∀ c ∈ s.buf b, c.1 < capacity s.params b

/-- The fault record (10_state.md R24, R25; 60_exceptions.md R165): with no error recorded ERRCODE and
ERRCMD are 0; with one, ERRCODE is a fault's and no output is marked valid. -/
def FaultRecordOk (s : State) : Prop :=
  (s.status.err = false → s.status.errCode = 0 ∧ s.errCmd = 0) ∧
  (s.status.err = true →
    (∃ code : FaultCode, s.status.errCode = errCodeOf code) ∧
    s.status.atlasActive = false ∧ s.status.atlasDone = false ∧ s.status.metValid = false)

/-- The layout registers are the layout of LAYOUT_WIDTH at LAYOUT_BD (40_layout.md R90), or all 0
before the first LAYOUT (10_state.md R37). -/
def LayoutOk (s : State) : Prop :=
  (s.status.layoutValid = false →
    s.status.fmtValid = false ∧ s.layout = ⟨0, 0, 0, 0, 0⟩) ∧
  (s.status.layoutValid = true → ∃ d : Depth,
    s.layout.layoutBd.toNat = d.bits ∧
    s.layout.padw.toNat = paddedWidth s.layout.layoutWidth.toNat d.bits ∧
    s.layout.stride.toNat = lineStride s.layout.layoutWidth.toNat d.bits ∧
    s.layout.fmt = formatId s.params d ∧
    s.status.fmtValid = (d != .one))

/-- BYTE_COUNT never exceeds BMP (10_state.md R38), and the bytes below it have been written
(70_reset_and_hazards.md R201). -/
def CountsOk (s : State) : Prop :=
  s.byteCount.toNat ≤ s.params.bmpCap ∧
  s.atlasBase.toNat ≤ s.byteCount.toNat ∧
  s.nextCode.toNat ≤ 128 ∧
  ∀ a, a < s.byteCount.toNat → ∃ b, s.bmp.get? a = some b

/-- What holds while an atlas is open: the checks of ATLAS_BEGIN (42_atlas.md R120) still hold, the
cells emitted so far fill BMP with no gap (R128), missing cells are zero (R126), and the preview is
zero in every padding column, missing cell and cell to come (R127). -/
structure AtlasOpen (s : State) : Prop where
  layout : s.status.layoutValid = true ∧ s.status.fmtValid = true
  notDone : s.status.atlasDone = false
  range : s.op.rangeLegal = true
  nonempty : s.op.rsetEmpty = false
  subset : s.op.rsetInRange = true
  geometry : 0 < s.width ∧ 0 < s.height
  next : s.op.rangeStart.toNat ≤ s.nextCode.toNat ∧ s.nextCode.toNat ≤ s.op.rangeEnd.toNat + 1
  filled : s.byteCount.toNat = s.atlasBase.toNat + s.cellIndex * s.cellBytes
  fitsBmp : s.atlasBase.toNat + s.op.nCodes * s.cellBytes ≤ s.params.bmpCap
  fitsAtlas : s.padw * s.height * s.op.nCodes ≤ s.params.atlasCap
  missing : ∀ k j, k < s.cellIndex → s.op.rset (s.op.rangeStart.toNat + k) = false →
    j < s.cellBytes → s.bmp.get? (s.atlasBase.toNat + k * s.cellBytes + j) = some 0
  preview : ∀ a, a < s.padw * s.height * s.op.nCodes → ∃ b, s.atlas.get? a = some b
  padding : ∀ row col, row < s.height * s.op.nCodes → s.width ≤ col → col < s.padw →
    s.atlas.get? (row * s.padw + col) = some 0
  unlit : ∀ k j, k < s.op.nCodes →
    (s.cellIndex ≤ k ∨ s.op.rset (s.op.rangeStart.toNat + k) = false) →
    j < s.height * s.padw → s.atlas.get? (k * s.height * s.padw + j) = some 0

/-- While MET_VALID = 1, all of MET is written and its layout fields are those of the current layout
(43_metrics.md R142, R143, R147). -/
def MetricsOk (s : State) : Prop :=
  s.status.metValid = true →
    s.status.fmtValid = true ∧
    (∀ a, a < 148 → ∃ b, s.met.get? a = some b) ∧
    ∀ i, i < 4 →
      s.met.get? (128 + i) = (le32 s.layout.fmt)[i]? ∧
      s.met.get? (132 + i) = (le32 s.layout.stride)[i]? ∧
      s.met.get? (136 + i) = (le32 s.layout.padw)[i]? ∧
      s.met.get? (144 + i) = some 0

/-- The invariant of the block. -/
structure Inv (s : State) : Prop where
  params : s.params.Legal
  buffers : BuffersOk s
  faultRecord : FaultRecordOk s
  layout : LayoutOk s
  counts : CountsOk s
  atlasOpen : s.status.atlasActive = true → AtlasOpen s
  atlasDone : s.status.atlasDone = true → s.status.fmtValid = true ∧ s.status.atlasActive = false
  metrics : MetricsOk s

/-! ### The words the statements use -/

/-- The fault record of 60_exceptions.md R165, spelled out, with an ERRCODE of R162. -/
def faulted (code : Byte) (s : State) : State :=
  { s with
    status := { s.status with
      err := true, errCode := code, atlasActive := false, atlasDone := false, metValid := false,
      busy := false },
    errCmd := s.cmdLatch,
    irqPend := { s.irqPend with err := true } }

/-- The host's access at the head of the events lies in the aperture (20_memory.md R50). -/
def InAperture (P : Params) : HostEvent → Prop
  | .idle => True
  | .reset => True
  | .access a => P.blockBase ≤ a.addr ∧ a.addr < P.blockBase + 0x800000

/-- The same command executed some number of times. -/
def repeatExec (i : Instr) : Nat → State → Result
  | 0, s => .next s
  | k + 1, s =>
    match exec i s with
    | .next t => repeatExec i k t
    | .fault f => .fault f
    | .refused r => .refused r

/-- Two 4-bit lanes of each byte, the high nibble first: the conceptual inverse of the 4-bpp packer
(41_quantize_pack.md R106). -/
def unpackNibbles (b : List Byte) : List Byte := b.flatMap fun (v : Byte) => [v >>> 4, v &&& 0x0F]

end Sys2Proof.Machine
end

