-- ==== Sys2Proof/Certificates/Slice0/Obligations.lean ====
section
/-! DEFINITION. The statements about the block. Each docstring names the rule of spec/ it formalises; a
file name is given where the rule's file is not plain from the command. -/

open Sys2Proof Sys2Proof.Machine

/-! ### Encoding -/

/-- 30_encoding.md R71, R74, R75: a word decodes to a command exactly when it is the word of that
command, and the command has one. No bit of an encoding is dropped, and no word has two readings. -/
def Obligations.DecodeInvertsEncode : Prop :=
  ∀ (w : Word) (i : Instr), decode w = .ok i ↔ i.wf = true ∧ encode i = w

/-- 30_encoding.md R74: the words of the opcode map, written out, are the commands they stand for. -/
def Obligations.OpcodeMapWordsDecode : Prop :=
  decode 0x00000000#32 = .ok .nop ∧ decode 0x00000001#32 = .ok .clear ∧
  decode 0x00000410#32 = .ok (.layout 4) ∧ decode 0x00000120#32 = .ok (.quant 1) ∧
  decode 0x00000821#32 = .ok (.pack 8) ∧ decode 0x00000022#32 = .ok .bitmap ∧
  decode 0x00000030#32 = .ok .atlasBegin ∧ decode 0x00000031#32 = .ok .cell ∧
  decode 0x00000032#32 = .ok .atlasEnd ∧ decode 0x00000040#32 = .ok .metrics

/-- 30_encoding.md R77: exactly 55 words decode, the 7 fixed words and the 48 words with a depth; and
exactly 15 can complete without fault, the 7 and the 8 with an accepted depth. -/
def Obligations.FiftyFiveWordsDecodeAndFifteenComplete : Prop :=
  ∃ fixed depth accepted : List Word,
    fixed = [0x00, 0x01, 0x22, 0x30, 0x31, 0x32, 0x40] ∧
    depth = (List.range 16).flatMap (fun d =>
      [BitVec.ofNat 32 (0x10 + 256 * d), BitVec.ofNat 32 (0x20 + 256 * d),
        BitVec.ofNat 32 (0x21 + 256 * d)]) ∧
    accepted = [0x110, 0x410, 0x810, 0x120, 0x420, 0x820, 0x421, 0x821] ∧
    (fixed ++ depth).Nodup ∧ (fixed ++ depth).length = 55 ∧
    (fixed ++ accepted).Nodup ∧ (fixed ++ accepted).length = 15 ∧
    (∀ w, (∃ i, decode w = .ok i) ↔ w ∈ fixed ++ depth) ∧
    (∀ w, (∃ s t, s.cmdLatch = w ∧ s.status.err = false ∧ engineStep s = .next t ∧
        t.status.err = false) ↔ w ∈ fixed ++ accepted)

/-- 30_encoding.md R76: the engine raises BadCommand, code 0x01 with the whole fault record of
60_exceptions.md R165, on every word with RSV ≠ 0, with an unlisted OP, or with a D that its OP does not
take; and on no other word is the decoder's answer an error. -/
def Obligations.IllegalWordsRaiseBadCommand : Prop :=
  ∀ w : Word,
    ((∃ e, decode w = .error e) ↔
      w.toNat / 4096 ≠ 0 ∨
      w.toNat % 256 ∉ [0x00, 0x01, 0x10, 0x20, 0x21, 0x22, 0x30, 0x31, 0x32, 0x40] ∨
      (w.toNat % 256 ∉ [0x10, 0x20, 0x21] ∧ w.toNat / 256 % 16 ≠ 0)) ∧
    ∀ s : State, s.cmdLatch = w → s.status.err = false → (∃ e, decode w = .error e) →
      engineStep s = .next (faulted 0x01 s)

/-! ### The engine step -/

/-- 60_exceptions.md R160: when a latched word decodes to a command and is not dropped, the step of the
block is that command's meaning: with no host event, after an idle turn (which is used up), and while a
host access that must wait is held (which stays). How host events stand in the state is the model's
choice (log 1). -/
def Obligations.StepExecutesDecodedCommand : Prop :=
  ∀ (s : State) (i : Instr),
    s.status.busy = true → (s.status.err = false ∨ s.cmdLatch = 0x00000001#32) →
    decode s.cmdLatch = .ok i →
    (s.inputs = [] → step s = exec i s) ∧
    (∀ rest, s.inputs = .idle :: rest → step s = exec i { s with inputs := rest }) ∧
    (∀ a rest, s.inputs = .access a :: rest → InAperture s.params (.access a) →
      completesWhileBusy (a.addr - s.params.blockBase) a = false → step s = exec i s)

/-- 60_exceptions.md R166: while STATUS.ERR = 1 every latched word but exactly CLEAR's is dropped: BUSY
is cleared and nothing else changes. CLEAR's word is executed. -/
def Obligations.StickyErrorDropsAllButClear : Prop :=
  ∀ s : State, s.status.err = true →
    (s.cmdLatch ≠ 0x00000001#32 →
      engineStep s = .next { s with status := { s.status with busy := false } }) ∧
    (s.cmdLatch = 0x00000001#32 → engineStep s = exec .clear s)

/-- 60_exceptions.md R160, R176: an engine step that goes on ends with BUSY = 0 and is exactly one of a
completion (which sets DONE), a fault (which sets ERR) and a drop (which sets neither). -/
def Obligations.EngineStepCompletesFaultsOrDrops : Prop :=
  ∀ s t : State, engineStep s = .next t →
    t.status.busy = false ∧
    ((t.irqPend = { s.irqPend with done := true } ∧ t.status.err = false) ∨
     (t.irqPend = { s.irqPend with err := true } ∧ t.status.err = true ∧ s.status.err = false) ∨
     (t = { s with status := { s.status with busy := false } } ∧ s.status.err = true))

/-- 60_exceptions.md R161, R165: a command that faults changes nothing but the fault record (and the
model's count of draws): no buffer, count, layout or configuration register. The count of draws is the
model's own (log 3). -/
def Obligations.FaultsArePrecise : Prop :=
  ∀ (i : Instr) (s t : State), s.status.err = false → exec i s = .next t → t.status.err = true →
    ∃ code : Byte, 0x02 ≤ code.toNat ∧ code.toNat ≤ 0x0B ∧ t = { faulted code s with draws := t.draws }

/-- 60_exceptions.md R169: the faults each command can raise. NOP and CLEAR raise none. -/
def Obligations.CommandsRaiseOnlyTheirFaults : Prop :=
  ∀ (i : Instr) (s t : State), s.status.err = false → exec i s = .next t → t.status.err = true →
    match i with
    | .nop => False
    | .clear => False
    | .layout _ => t.status.errCode ∈ [0x09#8, 0x02#8]
    | .quant _ => t.status.errCode ∈ [0x02#8, 0x08#8]
    | .pack _ => t.status.errCode ∈ [0x09#8, 0x02#8, 0x08#8, 0x0A#8]
    | .bitmap => t.status.errCode ∈ [0x09#8, 0x05#8, 0x02#8, 0x08#8]
    | .atlasBegin =>
      t.status.errCode ∈ [0x09#8, 0x05#8, 0x02#8, 0x06#8, 0x04#8, 0x07#8, 0x0B#8, 0x08#8]
    | .cell => t.status.errCode ∈ [0x09#8, 0x08#8]
    | .atlasEnd => t.status.errCode ∈ [0x09#8]
    | .metrics => t.status.errCode ∈ [0x05#8, 0x03#8, 0x06#8, 0x04#8, 0x07#8]

/-- 10_state.md R35: no command writes a configuration or operand register (nor IRQ_EN, the latch, the
parameters or the host's side); and a step that changes an operand register has a host access or a reset
at the head of the events. The events are the model's form of the host's side (log 1). -/
def Obligations.OperandRegistersAreWrittenByTheHostOnly : Prop :=
  (∀ (i : Instr) (s t : State), exec i s = .next t →
    t.op = s.op ∧ t.irqEn = s.irqEn ∧ t.cmdLatch = s.cmdLatch ∧ t.params = s.params ∧
      t.inputs = s.inputs ∧ t.responses = s.responses) ∧
  ∀ s t : State, step s = .next t → t.op ≠ s.op →
    (∃ rest, s.inputs = .reset :: rest) ∨
    (∃ w a v rest, s.inputs = .access (.write w a v) :: rest ∧ s.status.busy = false)

/-- 43_metrics.md R147: MET changes only by METRICS (or becomes unspecified at reset). -/
def Obligations.MetChangesOnlyByMetrics : Prop :=
  ∀ (s t : State) (a : Nat), step s = .next t → t.met.get? a ≠ s.met.get? a →
    (∃ rest, s.inputs = .reset :: rest) ∨
    (s.status.busy = true ∧ s.status.err = false ∧ s.cmdLatch = 0x00000040#32)

/-- 10_state.md R24: LAYOUT_VALID is cleared by reset only, and set by LAYOUT only. -/
def Obligations.LayoutValidIsClearedByResetOnly : Prop :=
  ∀ s t : State, step s = .next t → t.status.layoutValid ≠ s.status.layoutValid →
    (s.status.layoutValid = true → ∃ rest, s.inputs = .reset :: rest) ∧
    (s.status.layoutValid = false →
      s.status.busy = true ∧ ∃ d ∈ [1, 4, 8], decode s.cmdLatch = .ok (.layout d))

/-- 20_memory.md R59, 10_state.md R38: BMP is an append buffer. A step other than a reset leaves every
byte below BYTE_COUNT, and BYTE_COUNT falls only when CLEAR is executed, which sets it to 0. -/
def Obligations.PackedBytesAreAppendOnly : Prop :=
  ∀ s t : State, Inv s → step s = .next t → (∀ rest, s.inputs ≠ .reset :: rest) →
    (∀ a, a < s.byteCount.toNat → t.bmp.get? a = s.bmp.get? a) ∧
    (t.byteCount.toNat < s.byteCount.toNat →
      s.status.busy = true ∧ s.cmdLatch = 0x00000001#32 ∧ t.byteCount = 0)

/-! ### The invariant -/

/-- 10_state.md R46: the state after reset meets the invariant on every machine with legal parameters
(00_scope.md R9). The parameters of State.reset are the model's choice (log 4). -/
def Obligations.ResetMeetsTheInvariant : Prop :=
  (∀ P : Params, P.Legal → Inv (State.resetOf P)) ∧ Inv State.reset

/-- Every step of the block keeps the invariant: buffers in canonical form and inside their capacities;
the fault record; the layout registers a layout (40_layout.md R90); BYTE_COUNT ≤ BMP_CAP (10_state.md
R38) and the bytes below it written (70_reset_and_hazards.md R201); in an open atlas, every check of
ATLAS_BEGIN and the cells laid out as 42_atlas.md R126 to R128 say; and MET valid for the current layout
(43_metrics.md R147). -/
def Obligations.StepKeepsTheInvariant : Prop :=
  ∀ s t : State, Inv s → step s = .next t → Inv t

/-- Under the invariant the block never stops: while the host's accesses lie in the aperture, every step
answers a next state (60_exceptions.md R160). The model's choice (log 7): an access outside the aperture,
of which 70_reset_and_hazards.md R207 makes no move of the block, stops it by name. -/
def Obligations.TheBlockNeverStops : Prop :=
  (∀ s : State, Inv s → (∀ e ∈ s.inputs, InAperture s.params e) → ∃ t, step s = .next t) ∧
  ∀ (s : State) (a : Access) (rest : List HostEvent), s.inputs = .access a :: rest →
    ¬InAperture s.params (.access a) → step s = .fault (.outsideAperture a.addr)

/-- 70_reset_and_hazards.md R203, R205, R190: every latched command is eventually stepped, unless a
reset discards it. From any state that meets the invariant, whatever accesses to the aperture the host
has issued, BUSY is 0 after at most one step more than there are host events; and with no reset among
the events, within that many steps the block comes to the state of the engine's step on this very
command, in which all else is as it was latched but the host's events and responses. That the host's
accesses are a finite list in the state is the model's choice (log 1). -/
def Obligations.LatchedCommandsAreEventuallyStepped : Prop :=
  ∀ s : State, Inv s → s.status.busy = true → (∀ e ∈ s.inputs, InAperture s.params e) →
    (∃ n t, n ≤ s.inputs.length + 1 ∧ core.run n s = .next t ∧ t.status.busy = false) ∧
    (HostEvent.reset ∉ s.inputs → ∃ n t rest resp, n ≤ s.inputs.length + 1 ∧
      engineStep { s with inputs := rest, responses := resp } = .next t ∧
      core.run n s = .next t ∧ t.status.busy = false)

/-! ### LAYOUT -/

/-- 40_layout.md R90: LAYOUT d, which is the word 0x0000_0d10. In an open atlas it raises SequenceError,
and otherwise UnsupportedBitDepth for d ∉ {1, 4, 8}; for d ∈ {1, 4, 8} it completes, the layout
registers and the four flags take the rule's values, and (R96) nothing else changes. -/
def Obligations.LayoutComputesTheGeometry : Prop :=
  ∀ (d : Nat) (s : State),
    (d < 16 → decode (BitVec.ofNat 32 (0x10 + 256 * d)) = .ok (.layout d)) ∧
    (s.status.atlasActive = true → exec (.layout d) s = .next (faulted 0x09 s)) ∧
    (s.status.atlasActive = false → d ∉ [1, 4, 8] → exec (.layout d) s = .next (faulted 0x02 s)) ∧
    (s.status.atlasActive = false → d ∈ [1, 4, 8] →
      exec (.layout d) s = .next { s with
        layout := {
          padw := BitVec.ofNat 32 ((s.op.cfgWidth.toNat * d + 7) / 8 * 8 / d)
          stride := BitVec.ofNat 32 ((s.op.cfgWidth.toNat * d + 7) / 8 * 8 / d * d / 8)
          fmt := if d = 4 then s.params.fmtL4 else if d = 8 then s.params.fmtL8 else 0
          layoutBd := BitVec.ofNat 4 d
          layoutWidth := s.op.cfgWidth }
        status := { s.status with
          fmtValid := decide (d = 4 ∨ d = 8), layoutValid := true, metValid := false,
          atlasDone := false, busy := false }
        irqPend := { s.irqPend with done := true } })

/-- 40_layout.md R91: the formula of the padded width is the least width, no less than the requested
one, whose rows are a whole number of bytes; with g = 8/d it is ceil_div(w, g) * g, and p * d is a
multiple of 8 exactly when g divides p. -/
def Obligations.PaddedWidthIsTheLeastByteAlignedWidth : Prop :=
  ∀ (w d : Nat), d ∈ [1, 4, 8] →
    w ≤ paddedWidth w d ∧ paddedWidth w d * d % 8 = 0 ∧
    (∀ p, w ≤ p → p * d % 8 = 0 → paddedWidth w d ≤ p) ∧
    paddedWidth w d = (w + 8 / d - 1) / (8 / d) * (8 / d) ∧
    (∀ p, p * d % 8 = 0 ↔ 8 / d ∣ p)

/-- 40_layout.md R93, R94: every LAYOUT result: PADW * d is a multiple of 8, PADW ≥ w, STRIDE * 8 is
exactly PADW * d, PADW - w < 8/d, and both fit, PADW ≤ 65536 and STRIDE ≤ 65535. -/
def Obligations.LayoutResultsMeetTheirInvariants : Prop :=
  ∀ (d : Nat) (s t : State), exec (.layout d) s = .next t → s.status.err = false →
    t.status.err = false →
    t.layout.padw.toNat * d % 8 = 0 ∧
    s.op.cfgWidth.toNat ≤ t.layout.padw.toNat ∧
    t.layout.stride.toNat * 8 = t.layout.padw.toNat * d ∧
    t.layout.padw.toNat - s.op.cfgWidth.toNat < 8 / d ∧
    t.layout.padw.toNat ≤ 65536 ∧ t.layout.stride.toNat ≤ 65535

/-! ### QUANT -/

/-- 41_quantize_pack.md R100: the quantizer: the identity at 8 bits, (x * 15 + 135) >> 8 at 4 bits, and
at 1 bit 1 from 128 on. -/
def Obligations.QuantizerFormulas : Prop :=
  ∀ x : Byte,
    quantize .eight x = x ∧
    (quantize .four x).toNat = (x.toNat * 15 + 135) / 256 ∧
    (quantize .one x).toNat = if x.toNat ≤ 127 then 0 else 1

/-- 41_quantize_pack.md R101: the quantizer stays in range, keeps order, fixes the ends, and rounds x *
(2^d - 1) / 255 to the nearest integer, with no tie. -/
def Obligations.QuantizerRoundsToNearest : Prop :=
  ∀ (d : Depth) (x y : Byte),
    (quantize d x).toNat < 2 ^ d.bits ∧
    (x.toNat ≤ y.toNat → (quantize d x).toNat ≤ (quantize d y).toNat) ∧
    quantize d 0 = 0 ∧ (quantize d 0xFF).toNat = 2 ^ d.bits - 1 ∧
    2 * (255 * (quantize d x).toNat) < 2 * (x.toNat * (2 ^ d.bits - 1)) + 255 ∧
    2 * (x.toNat * (2 ^ d.bits - 1)) < 2 * (255 * (quantize d x).toNat) + 255

/-- 41_quantize_pack.md R102: QUANT d with both ranges in bounds completes, in an open atlas too. Each
written sample's index is stored; a sample nothing has written (10_state.md R41) gives some index below
2^d; every IDX byte outside the range and everything else is unchanged. Such a sample is a free value
(log 3). -/
def Obligations.QuantStoresTheIndices : Prop :=
  ∀ (d : Depth) (s : State),
    s.op.srcOff.toNat + s.op.len.toNat ≤ s.params.srcCap →
    s.op.idxOff.toNat + s.op.len.toNat ≤ s.params.idxCap →
    ∃ t, exec (.quant d.bits) s = .next t ∧
      (∀ i x, i < s.op.len.toNat → s.src.get? (s.op.srcOff.toNat + i) = some x →
        t.idx.get? (s.op.idxOff.toNat + i) = some (quantize d x)) ∧
      (∀ i, i < s.op.len.toNat →
        ∃ v, t.idx.get? (s.op.idxOff.toNat + i) = some v ∧ v.toNat < 2 ^ d.bits) ∧
      (∀ a, a < s.op.idxOff.toNat ∨ s.op.idxOff.toNat + s.op.len.toNat ≤ a →
        t.idx.get? a = s.idx.get? a) ∧
      t = { s with
        idx := t.idx, draws := t.draws, status := { s.status with busy := false },
        irqPend := { s.irqPend with done := true } }

/-- 41_quantize_pack.md R102, 60_exceptions.md R171: QUANT's faults: UnsupportedBitDepth for every other
depth, then BufferOverflow, by exact sums that do not wrap at 32 bits. -/
def Obligations.QuantFaults : Prop :=
  ∀ (d : Nat) (s : State),
    (d ∉ [1, 4, 8] → exec (.quant d) s = .next (faulted 0x02 s)) ∧
    (d ∈ [1, 4, 8] →
      s.params.srcCap < s.op.srcOff.toNat + s.op.len.toNat ∨
        s.params.idxCap < s.op.idxOff.toNat + s.op.len.toNat →
      exec (.quant d) s = .next (faulted 0x08 s))

/-! ### PACK -/

/-- 41_quantize_pack.md R105, R106: the packer: at 8 bits the identity; at 4 bits ceil(n/2) bytes whose
nibbles, high first, are the indices, followed by one 0 when their number is odd. -/
def Obligations.PackerRoundTrips : Prop :=
  ∀ a : List Byte,
    pack .eight a = a ∧
    ((∀ b ∈ a, b.toNat ≤ 15) →
      (pack .four a).length = (a.length + 1) / 2 ∧
      (a.length % 2 = 0 → unpackNibbles (pack .four a) = a) ∧
      (a.length % 2 = 1 → unpackNibbles (pack .four a) = a ++ [0]))

/-- 41_quantize_pack.md R107: PACK 8 with no open atlas and both ranges in bounds completes and appends
the indices unchanged; every other byte of BMP and everything else is unchanged. -/
def Obligations.PackEightAppendsTheIndices : Prop :=
  ∀ s : State, s.params.Legal → s.status.atlasActive = false →
    s.op.idxOff.toNat + s.op.len.toNat ≤ s.params.idxCap →
    s.byteCount.toNat + s.op.len.toNat ≤ s.params.bmpCap →
    ∃ t, exec (.pack 8) s = .next t ∧
      t.byteCount.toNat = s.byteCount.toNat + s.op.len.toNat ∧
      (∀ i x, i < s.op.len.toNat → s.idx.get? (s.op.idxOff.toNat + i) = some x →
        t.bmp.get? (s.byteCount.toNat + i) = some x) ∧
      (∀ i, i < s.op.len.toNat → ∃ v, t.bmp.get? (s.byteCount.toNat + i) = some v) ∧
      (∀ a, a < s.byteCount.toNat ∨ s.byteCount.toNat + s.op.len.toNat ≤ a →
        t.bmp.get? a = s.bmp.get? a) ∧
      t = { s with
        bmp := t.bmp, byteCount := t.byteCount, draws := t.draws,
        status := { s.status with busy := false }, irqPend := { s.irqPend with done := true } }

/-- 41_quantize_pack.md R107: PACK 4 with no open atlas, both ranges in bounds and every index written
and at most 15 completes and appends ceil(n/2) bytes, the earlier index in the high nibble and a missing
last index 0; every other byte of BMP and everything else is unchanged. -/
def Obligations.PackFourAppendsNibblePairs : Prop :=
  ∀ (s : State) (x : Nat → Byte), s.params.Legal → s.status.atlasActive = false →
    s.op.idxOff.toNat + s.op.len.toNat ≤ s.params.idxCap →
    s.byteCount.toNat + (s.op.len.toNat + 1) / 2 ≤ s.params.bmpCap →
    (∀ i, i < s.op.len.toNat →
      s.idx.get? (s.op.idxOff.toNat + i) = some (x i) ∧ (x i).toNat ≤ 15) →
    ∃ t, exec (.pack 4) s = .next t ∧
      t.byteCount.toNat = s.byteCount.toNat + (s.op.len.toNat + 1) / 2 ∧
      (∀ j, j < (s.op.len.toNat + 1) / 2 →
        (t.bmp.get? (s.byteCount.toNat + j)).map BitVec.toNat =
          some (16 * (x (2 * j)).toNat +
            if 2 * j + 1 < s.op.len.toNat then (x (2 * j + 1)).toNat else 0)) ∧
      (∀ a, a < s.byteCount.toNat ∨ s.byteCount.toNat + (s.op.len.toNat + 1) / 2 ≤ a →
        t.bmp.get? a = s.bmp.get? a) ∧
      t = { s with
        bmp := t.bmp, byteCount := t.byteCount, draws := t.draws,
        status := { s.status with busy := false }, irqPend := { s.irqPend with done := true } }

/-- 41_quantize_pack.md R107: PACK's faults in the order of the rule: SequenceError, UnsupportedBitDepth
(1 included), BufferOverflow of IDX or of BMP, and IndexRange when a written index is above 15 at 4
bits. Where an index is not written (93_implementation_defined.md I10), PACK 4 in bounds still goes on,
to a completion or to IndexRange. Such an index is a free value (log 3). -/
def Obligations.PackFaults : Prop :=
  ∀ (d : Nat) (s : State),
    (s.status.atlasActive = true → exec (.pack d) s = .next (faulted 0x09 s)) ∧
    (s.status.atlasActive = false → d ∉ [4, 8] → exec (.pack d) s = .next (faulted 0x02 s)) ∧
    (s.status.atlasActive = false → d ∈ [4, 8] →
      s.params.idxCap < s.op.idxOff.toNat + s.op.len.toNat ∨
        s.params.bmpCap <
          s.byteCount.toNat + (if d = 8 then s.op.len.toNat else (s.op.len.toNat + 1) / 2) →
      exec (.pack d) s = .next (faulted 0x08 s)) ∧
    (s.status.atlasActive = false →
      s.op.idxOff.toNat + s.op.len.toNat ≤ s.params.idxCap →
      s.byteCount.toNat + (s.op.len.toNat + 1) / 2 ≤ s.params.bmpCap →
      ∃ t, exec (.pack 4) s = .next t ∧
        (t = { faulted 0x0A s with draws := t.draws } ∨
          t.irqPend = { s.irqPend with done := true } ∧ t.status.err = s.status.err) ∧
        ((∃ i x, i < s.op.len.toNat ∧ s.idx.get? (s.op.idxOff.toNat + i) = some x ∧ 15 < x.toNat) →
          t = { faulted 0x0A s with draws := t.draws }))

/-! ### BITMAP -/

/-- 41_quantize_pack.md R110, R111: BITMAP under a valid 4- or 8-bpp layout, with no open atlas, the
samples in bounds and written, and room in BMP, completes. It appends exactly STRIDE * h bytes; byte j
of row r holds the quantized samples of its columns, and the padding columns as 0; every other byte of
BMP and everything else is unchanged. The premise `LayoutOk` is part of the invariant. -/
def Obligations.BitmapAppendsPaddedRows : Prop :=
  ∀ (s : State) (x : Nat → Byte), s.params.Legal → LayoutOk s → s.status.layoutValid = true →
    s.layout.layoutBd.toNat ∈ [4, 8] → s.status.atlasActive = false →
    s.op.srcOff.toNat + s.width * s.height ≤ s.params.srcCap →
    s.byteCount.toNat + s.stride * s.height ≤ s.params.bmpCap →
    (∀ i, i < s.width * s.height → s.src.get? (s.op.srcOff.toNat + i) = some (x i)) →
    ∃ t, exec .bitmap s = .next t ∧
      t.byteCount.toNat = s.byteCount.toNat + s.stride * s.height ∧
      (∀ r j, r < s.height → j < s.stride →
        (t.bmp.get? (s.byteCount.toNat + r * s.stride + j)).map BitVec.toNat =
          some (if s.layout.layoutBd.toNat = 8 then (x (r * s.width + j)).toNat
            else 16 * (quantize .four (x (r * s.width + 2 * j))).toNat +
              if 2 * j + 1 < s.width then (quantize .four (x (r * s.width + 2 * j + 1))).toNat
              else 0)) ∧
      (∀ a, a < s.byteCount.toNat ∨ s.byteCount.toNat + s.stride * s.height ≤ a →
        t.bmp.get? a = s.bmp.get? a) ∧
      t = { s with
        bmp := t.bmp, byteCount := t.byteCount, draws := t.draws,
        status := { s.status with busy := false }, irqPend := { s.irqPend with done := true } }

/-- 41_quantize_pack.md R110, 93_implementation_defined.md I10: the same form completes and appends
STRIDE * h written bytes whatever of SRC has been written; every other byte of BMP and everything else
is unchanged. An unwritten sample is a free value (log 3). -/
def Obligations.BitmapCompletesOnUnwrittenSamples : Prop :=
  ∀ s : State, s.params.Legal → LayoutOk s → s.status.layoutValid = true →
    s.layout.layoutBd.toNat ∈ [4, 8] → s.status.atlasActive = false →
    s.op.srcOff.toNat + s.width * s.height ≤ s.params.srcCap →
    s.byteCount.toNat + s.stride * s.height ≤ s.params.bmpCap →
    ∃ t, exec .bitmap s = .next t ∧
      t.byteCount.toNat = s.byteCount.toNat + s.stride * s.height ∧
      (∀ j, j < s.stride * s.height → ∃ v, t.bmp.get? (s.byteCount.toNat + j) = some v) ∧
      (∀ a, a < s.byteCount.toNat ∨ s.byteCount.toNat + s.stride * s.height ≤ a →
        t.bmp.get? a = s.bmp.get? a) ∧
      t = { s with
        bmp := t.bmp, byteCount := t.byteCount, draws := t.draws,
        status := { s.status with busy := false }, irqPend := { s.irqPend with done := true } }

/-- 41_quantize_pack.md R110: BITMAP's faults in the order of the rule. -/
def Obligations.BitmapFaults : Prop :=
  ∀ s : State,
    (s.status.atlasActive = true → exec .bitmap s = .next (faulted 0x09 s)) ∧
    (s.status.atlasActive = false → s.status.layoutValid = false →
      exec .bitmap s = .next (faulted 0x05 s)) ∧
    (s.status.atlasActive = false → s.status.layoutValid = true →
      s.layout.layoutBd.toNat ∉ [4, 8] → exec .bitmap s = .next (faulted 0x02 s)) ∧
    (s.status.atlasActive = false → s.status.layoutValid = true → s.layout.layoutBd.toNat ∈ [4, 8] →
      s.params.srcCap < s.op.srcOff.toNat + s.width * s.height ∨
        s.params.bmpCap < s.byteCount.toNat + s.stride * s.height →
      exec .bitmap s = .next (faulted 0x08 s))

/-- 41_quantize_pack.md R113: where w = PADW, QUANT d then PACK d over the same w * h written samples
gives BMP and BYTE_COUNT exactly as BITMAP does. -/
def Obligations.BitmapEqualsQuantThenPack : Prop :=
  ∀ (s : State) (x : Nat → Byte), s.params.Legal → LayoutOk s → s.status.layoutValid = true →
    s.layout.layoutBd.toNat ∈ [4, 8] → s.status.atlasActive = false →
    s.width = s.padw → s.op.len.toNat = s.width * s.height →
    s.op.srcOff.toNat + s.op.len.toNat ≤ s.params.srcCap →
    s.op.idxOff.toNat + s.op.len.toNat ≤ s.params.idxCap →
    s.byteCount.toNat + s.stride * s.height ≤ s.params.bmpCap →
    (∀ i, i < s.op.len.toNat → s.src.get? (s.op.srcOff.toNat + i) = some (x i)) →
    ∃ t u v, exec .bitmap s = .next t ∧
      exec (.quant s.layout.layoutBd.toNat) s = .next u ∧
      exec (.pack s.layout.layoutBd.toNat) u = .next v ∧
      v.bmp = t.bmp ∧ v.byteCount = t.byteCount ∧ v.status = t.status

/-! ### The atlas -/

/-- 42_atlas.md R120: when every check passes, ATLAS_BEGIN completes: the PADW * h * N preview bytes are
0, ATLAS_BASE is BYTE_COUNT, NEXT_CODE is START, ATLAS_ACTIVE is 1 and ATLAS_DONE 0; every other preview
byte and everything else is unchanged. -/
def Obligations.AtlasBeginOpensTheAtlas : Prop :=
  ∀ s : State, s.status.atlasActive = false → s.status.layoutValid = true →
    s.layout.layoutBd.toNat ∈ [4, 8] →
    s.op.rangeStart.toNat ≤ s.op.rangeEnd.toNat → s.op.rangeEnd.toNat ≤ 127 →
    (∃ c, c < 128 ∧ s.op.rset c = true) →
    (∀ c, c < 128 → s.op.rset c = true → s.op.rangeStart.toNat ≤ c ∧ c ≤ s.op.rangeEnd.toNat) →
    s.width ≠ 0 → s.height ≠ 0 →
    s.byteCount.toNat + s.stride * s.height * (s.op.rangeEnd.toNat - s.op.rangeStart.toNat + 1) ≤
      s.params.bmpCap →
    s.padw * s.height * (s.op.rangeEnd.toNat - s.op.rangeStart.toNat + 1) ≤ s.params.atlasCap →
    ∃ t, exec .atlasBegin s = .next t ∧
      (∀ a, a < s.padw * s.height * (s.op.rangeEnd.toNat - s.op.rangeStart.toNat + 1) →
        t.atlas.get? a = some 0) ∧
      (∀ a, s.padw * s.height * (s.op.rangeEnd.toNat - s.op.rangeStart.toNat + 1) ≤ a →
        t.atlas.get? a = s.atlas.get? a) ∧
      t = { s with
        atlas := t.atlas, atlasBase := s.byteCount, nextCode := s.op.rangeStart,
        status := { s.status with atlasActive := true, atlasDone := false, busy := false },
        irqPend := { s.irqPend with done := true } }

/-- 42_atlas.md R120, R121, 60_exceptions.md R163: the eight faults of ATLAS_BEGIN, each reported when
its condition holds and no earlier one does. -/
def Obligations.AtlasBeginFaultPriority : Prop :=
  ∀ s : State,
    (s.status.atlasActive = true → exec .atlasBegin s = .next (faulted 0x09 s)) ∧
    (s.status.atlasActive = false →
      (s.status.layoutValid = false → exec .atlasBegin s = .next (faulted 0x05 s)) ∧
      (s.status.layoutValid = true →
        (s.layout.layoutBd.toNat ∉ [4, 8] → exec .atlasBegin s = .next (faulted 0x02 s)) ∧
        (s.layout.layoutBd.toNat ∈ [4, 8] →
          (¬(s.op.rangeStart.toNat ≤ s.op.rangeEnd.toNat ∧ s.op.rangeEnd.toNat ≤ 127) →
            exec .atlasBegin s = .next (faulted 0x06 s)) ∧
          (s.op.rangeStart.toNat ≤ s.op.rangeEnd.toNat ∧ s.op.rangeEnd.toNat ≤ 127 →
            ((∀ c, c < 128 → s.op.rset c = false) → exec .atlasBegin s = .next (faulted 0x04 s)) ∧
            ((∃ c, c < 128 ∧ s.op.rset c = true ∧
                ¬(s.op.rangeStart.toNat ≤ c ∧ c ≤ s.op.rangeEnd.toNat)) →
              exec .atlasBegin s = .next (faulted 0x07 s)) ∧
            ((∃ c, c < 128 ∧ s.op.rset c = true) →
              (∀ c, c < 128 → s.op.rset c = true →
                s.op.rangeStart.toNat ≤ c ∧ c ≤ s.op.rangeEnd.toNat) →
              (s.width = 0 ∨ s.height = 0 → exec .atlasBegin s = .next (faulted 0x0B s)) ∧
              (s.width ≠ 0 ∧ s.height ≠ 0 →
                s.params.bmpCap < s.byteCount.toNat +
                    s.stride * s.height * (s.op.rangeEnd.toNat - s.op.rangeStart.toNat + 1) ∨
                  s.params.atlasCap <
                    s.padw * s.height * (s.op.rangeEnd.toNat - s.op.rangeStart.toNat + 1) →
                exec .atlasBegin s = .next (faulted 0x08 s)))))))

/-- 42_atlas.md R125, R127, R128: CELL for a code in the render set, in an open atlas, with its written
samples in bounds, completes. It appends the packed rows as BITMAP does, composites the samples into the
preview at row k * h, leaves every other byte of both buffers, and moves to the next code. -/
def Obligations.RenderedCellIsPackedAndComposited : Prop :=
  ∀ (s : State) (x : Nat → Byte), Inv s → s.status.atlasActive = true →
    s.nextCode.toNat ≤ s.op.rangeEnd.toNat → s.op.rset s.nextCode.toNat = true →
    s.op.srcOff.toNat + s.width * s.height ≤ s.params.srcCap →
    (∀ i, i < s.width * s.height → s.src.get? (s.op.srcOff.toNat + i) = some (x i)) →
    ∃ t, exec .cell s = .next t ∧
      t.byteCount.toNat = s.byteCount.toNat + s.stride * s.height ∧
      (∀ r j, r < s.height → j < s.stride →
        (t.bmp.get? (s.byteCount.toNat + r * s.stride + j)).map BitVec.toNat =
          some (if s.layout.layoutBd.toNat = 8 then (x (r * s.width + j)).toNat
            else 16 * (quantize .four (x (r * s.width + 2 * j))).toNat +
              if 2 * j + 1 < s.width then (quantize .four (x (r * s.width + 2 * j + 1))).toNat
              else 0)) ∧
      (∀ a, a < s.byteCount.toNat ∨ s.byteCount.toNat + s.stride * s.height ≤ a →
        t.bmp.get? a = s.bmp.get? a) ∧
      (∀ r c, r < s.height → c < s.width →
        t.atlas.get? (((s.nextCode.toNat - s.op.rangeStart.toNat) * s.height + r) * s.padw + c) =
          some (x (r * s.width + c))) ∧
      (∀ a, (∀ r c, r < s.height → c < s.width →
          a ≠ ((s.nextCode.toNat - s.op.rangeStart.toNat) * s.height + r) * s.padw + c) →
        t.atlas.get? a = s.atlas.get? a) ∧
      t.nextCode.toNat = s.nextCode.toNat + 1 ∧
      t = { s with
        bmp := t.bmp, byteCount := t.byteCount, atlas := t.atlas, nextCode := t.nextCode,
        draws := t.draws, status := { s.status with busy := false },
        irqPend := { s.irqPend with done := true } }

/-- 42_atlas.md R125, R126: CELL for a code outside the render set, in an open atlas, completes whatever
SRC and SRC_OFF hold: STRIDE * h zero bytes are appended, the preview is left alone, and NEXT_CODE moves
on. -/
def Obligations.MissingCellIsAllZero : Prop :=
  ∀ s : State, Inv s → s.status.atlasActive = true →
    s.nextCode.toNat ≤ s.op.rangeEnd.toNat → s.op.rset s.nextCode.toNat = false →
    ∃ t, exec .cell s = .next t ∧
      t.byteCount.toNat = s.byteCount.toNat + s.stride * s.height ∧
      (∀ j, j < s.stride * s.height → t.bmp.get? (s.byteCount.toNat + j) = some 0) ∧
      (∀ a, a < s.byteCount.toNat ∨ s.byteCount.toNat + s.stride * s.height ≤ a →
        t.bmp.get? a = s.bmp.get? a) ∧
      t.nextCode.toNat = s.nextCode.toNat + 1 ∧
      t = { s with
        bmp := t.bmp, byteCount := t.byteCount, nextCode := t.nextCode,
        status := { s.status with busy := false }, irqPend := { s.irqPend with done := true } }

/-- 42_atlas.md R126: the all-zero cell is what rendering an all-black glyph would give. -/
def Obligations.MissingCellEqualsBlackGlyph : Prop :=
  ∀ (d : PackDepth) (w h : Nat),
    packImage d w h (paddedWidth w d.depth.bits) (List.replicate (w * h) 0) =
      List.replicate (lineStride w d.depth.bits * h) 0

/-- 42_atlas.md R125, R130: the faults of CELL and ATLAS_END: SequenceError with no open atlas, after the
last cell (CELL) or before it (ATLAS_END); BufferOverflow for a rendered glyph that does not fit in SRC.
The model's choice (log 8): a rendered CELL under a depth the packer has no meaning for, which the
invariant excludes, stops by name. -/
def Obligations.CellAndAtlasEndFaults : Prop :=
  ∀ s : State,
    (s.status.atlasActive = false →
      exec .cell s = .next (faulted 0x09 s) ∧ exec .atlasEnd s = .next (faulted 0x09 s)) ∧
    (s.status.atlasActive = true →
      (s.op.rangeEnd.toNat < s.nextCode.toNat → exec .cell s = .next (faulted 0x09 s)) ∧
      (s.nextCode.toNat ≤ s.op.rangeEnd.toNat → s.op.rset s.nextCode.toNat = true →
        (s.params.srcCap < s.op.srcOff.toNat + s.width * s.height →
          exec .cell s = .next (faulted 0x08 s)) ∧
        (s.op.srcOff.toNat + s.width * s.height ≤ s.params.srcCap →
          s.layout.layoutBd.toNat ∉ [4, 8] → exec .cell s = .fault .cellWithoutPacker)) ∧
      (s.nextCode.toNat ≠ s.op.rangeEnd.toNat + 1 → exec .atlasEnd s = .next (faulted 0x09 s)))

/-- 42_atlas.md R125: the BMP and ATLAS bounds of a CELL cannot fail. Under the invariant a CELL changes
only bytes of its own cell, which lie in BMP and in ATLAS; every byte of the cell of NEXT_CODE lies
there; and a CELL raises BufferOverflow only where the glyph does not fit in SRC. -/
def Obligations.CellsNeverLeaveTheirBuffers : Prop :=
  (∀ s t : State, Inv s → exec .cell s = .next t →
    (∀ a, t.bmp.get? a ≠ s.bmp.get? a →
      s.byteCount.toNat ≤ a ∧ a < s.byteCount.toNat + s.stride * s.height ∧ a < s.params.bmpCap) ∧
    (∀ a, t.atlas.get? a ≠ s.atlas.get? a →
      (s.nextCode.toNat - s.op.rangeStart.toNat) * s.height * s.padw ≤ a ∧
      a < (s.nextCode.toNat - s.op.rangeStart.toNat + 1) * s.height * s.padw ∧
      a < s.params.atlasCap) ∧
    (s.status.err = false → t.status.errCode = 0x08 →
      s.params.srcCap < s.op.srcOff.toNat + s.width * s.height)) ∧
  ∀ s : State, Inv s → s.status.atlasActive = true → s.nextCode.toNat ≤ s.op.rangeEnd.toNat →
    s.byteCount.toNat + s.stride * s.height ≤ s.params.bmpCap ∧
    ∀ r c, r < s.height → c < s.padw →
      ((s.nextCode.toNat - s.op.rangeStart.toNat) * s.height + r) * s.padw + c < s.params.atlasCap

/-- 42_atlas.md R130, R131: ATLAS_END after the last cell completes, closes the atlas and changes
nothing else; then BYTE_COUNT - ATLAS_BASE = STRIDE * H * N_codes. -/
def Obligations.AtlasEndClosesACompleteAtlas : Prop :=
  ∀ s : State, s.status.atlasActive = true → s.nextCode.toNat = s.op.rangeEnd.toNat + 1 →
    exec .atlasEnd s = .next { s with
      status := { s.status with atlasActive := false, atlasDone := true, busy := false },
      irqPend := { s.irqPend with done := true } } ∧
    (Inv s → s.byteCount.toNat - s.atlasBase.toNat =
      s.stride * s.height * (s.op.rangeEnd.toNat - s.op.rangeStart.toNat + 1))

/-- 42_atlas.md R125 to R128, R131 to R133: from a freshly opened atlas whose glyphs fit in SRC, k ≤ N
CELLs emit exactly the cells of the first k codes, in ascending order with no gap, above the bytes BMP
held, which stay: every missing cell zero, and every rendered one, where the samples in SRC are written,
the packed rows of those samples, composited into the preview too. After N of them ATLAS_END completes
with BYTE_COUNT - ATLAS_BASE = STRIDE * H * N. -/
def Obligations.AnAtlasRunEmitsEveryCellInOrder : Prop :=
  ∀ (s : State) (k : Nat), Inv s → s.status.atlasActive = true → s.nextCode = s.op.rangeStart →
    s.op.srcOff.toNat + s.width * s.height ≤ s.params.srcCap →
    k ≤ s.op.rangeEnd.toNat - s.op.rangeStart.toNat + 1 →
    ∃ t, repeatExec .cell k s = .next t ∧
      t.status.atlasActive = true ∧ t.op = s.op ∧ t.layout = s.layout ∧ t.atlasBase = s.byteCount ∧
      t.nextCode.toNat = s.op.rangeStart.toNat + k ∧
      t.byteCount.toNat = s.byteCount.toNat + k * (s.stride * s.height) ∧
      (∀ a, a < s.byteCount.toNat → t.bmp.get? a = s.bmp.get? a) ∧
      (∀ c j, c < k → s.op.rset (s.op.rangeStart.toNat + c) = false → j < s.stride * s.height →
        t.bmp.get? (s.byteCount.toNat + c * (s.stride * s.height) + j) = some 0) ∧
      (∀ x : Nat → Byte,
        (∀ i, i < s.width * s.height → s.src.get? (s.op.srcOff.toNat + i) = some (x i)) →
        ∀ c, c < k → s.op.rset (s.op.rangeStart.toNat + c) = true →
          (∀ r j, r < s.height → j < s.stride →
            (t.bmp.get? (s.byteCount.toNat + c * (s.stride * s.height) + r * s.stride + j)).map
                BitVec.toNat =
              some (if s.layout.layoutBd.toNat = 8 then (x (r * s.width + j)).toNat
                else 16 * (quantize .four (x (r * s.width + 2 * j))).toNat +
                  if 2 * j + 1 < s.width then
                    (quantize .four (x (r * s.width + 2 * j + 1))).toNat
                  else 0)) ∧
          (∀ r q, r < s.height → q < s.width →
            t.atlas.get? ((c * s.height + r) * s.padw + q) = some (x (r * s.width + q)))) ∧
      (k = s.op.rangeEnd.toNat - s.op.rangeStart.toNat + 1 →
        ∃ u, exec .atlasEnd t = .next u ∧ u.status.atlasDone = true ∧ u.status.err = false ∧
          u.byteCount.toNat - u.atlasBase.toNat = s.stride * s.height * k)

/-! ### METRICS -/

/-- 10_state.md R31, 43_metrics.md R140 to R144: code c is in the render set exactly when bit c mod 32
of RSETk is 1, with k = c div 32. METRICS with its five checks met completes, in an open atlas too, and
writes all 148 bytes: the width table, then the five little-endian fields in the fixed order, the last
one 0. MET_VALID becomes 1 and nothing else changes. -/
def Obligations.MetricsBuildsTheTable : Prop :=
  (∀ (o : OperandRegs) (c : Nat), c < 128 →
    o.rset c = ([o.rset0, o.rset1, o.rset2, o.rset3].getD (c / 32) 0).getLsbD (c % 32)) ∧
  ∀ s : State, s.status.layoutValid = true → s.status.fmtValid = true →
    s.op.rangeStart.toNat ≤ s.op.rangeEnd.toNat → s.op.rangeEnd.toNat ≤ 127 →
    (∃ c, c < 128 ∧ s.op.rset c = true) →
    (∀ c, c < 128 → s.op.rset c = true → s.op.rangeStart.toNat ≤ c ∧ c ≤ s.op.rangeEnd.toNat) →
    ∃ t, exec .metrics s = .next t ∧
      (∀ c, c < 128 → t.met.get? c = some (if s.op.rset c then s.op.cfgAdvance else 0)) ∧
      (∀ i, i < 4 →
        t.met.get? (128 + i) = some (s.layout.fmt.extractLsb' (8 * i) 8) ∧
        t.met.get? (132 + i) = some (s.layout.stride.extractLsb' (8 * i) 8) ∧
        t.met.get? (136 + i) = some (s.layout.padw.extractLsb' (8 * i) 8) ∧
        (t.met.get? (140 + i)).map BitVec.toNat = some (s.height / 256 ^ i % 256) ∧
        t.met.get? (144 + i) = some 0) ∧
      (∀ a, 148 ≤ a → t.met.get? a = s.met.get? a) ∧
      t = { s with
        met := t.met, status := { s.status with metValid := true, busy := false },
        irqPend := { s.irqPend with done := true } }

/-- 43_metrics.md R140, 60_exceptions.md R163: the five faults of METRICS, each reported when its
condition holds and no earlier one does. -/
def Obligations.MetricsFaultPriority : Prop :=
  ∀ s : State,
    (s.status.layoutValid = false → exec .metrics s = .next (faulted 0x05 s)) ∧
    (s.status.layoutValid = true →
      (s.status.fmtValid = false → exec .metrics s = .next (faulted 0x03 s)) ∧
      (s.status.fmtValid = true →
        (¬(s.op.rangeStart.toNat ≤ s.op.rangeEnd.toNat ∧ s.op.rangeEnd.toNat ≤ 127) →
          exec .metrics s = .next (faulted 0x06 s)) ∧
        (s.op.rangeStart.toNat ≤ s.op.rangeEnd.toNat ∧ s.op.rangeEnd.toNat ≤ 127 →
          ((∀ c, c < 128 → s.op.rset c = false) → exec .metrics s = .next (faulted 0x04 s)) ∧
          ((∃ c, c < 128 ∧ s.op.rset c = true ∧
              ¬(s.op.rangeStart.toNat ≤ c ∧ c ≤ s.op.rangeEnd.toNat)) →
            exec .metrics s = .next (faulted 0x07 s)))))

/-! ### NOP and CLEAR -/

/-- 44_control.md R150: NOP is the word 0 alone among the words whose OP is 0x00; it completes and does
nothing else; and while an error is recorded it is dropped, without setting DONE. -/
def Obligations.NopOnlyCompletes : Prop :=
  (∀ w : Word, w.toNat % 256 = 0 → (decode w = .ok .nop ↔ w = 0) ∧
    (w ≠ 0 → ∃ e, decode w = .error e)) ∧
  (∀ s : State, exec .nop s = .next { s with
    status := { s.status with busy := false }, irqPend := { s.irqPend with done := true } }) ∧
  ∀ s : State, s.status.err = true → s.cmdLatch = 0 →
    engineStep s = .next { s with status := { s.status with busy := false } }

/-- 44_control.md R151: CLEAR is exactly the word 0x0000_0001. It completes from every state, with an
error recorded too; clears the fault record, the run's flags and the counts; and keeps everything else:
layout, configuration, buffers, IRQ_EN and IRQ_PEND.ERR. -/
def Obligations.ClearEndsTheRun : Prop :=
  (∀ w : Word, decode w = .ok .clear ↔ w = 0x00000001#32) ∧
  (∀ s : State, exec .clear s = .next { s with
    status := { s.status with
      err := false, errCode := 0, atlasActive := false, atlasDone := false, metValid := false,
      busy := false }
    errCmd := 0, byteCount := 0, nextCode := 0, atlasBase := 0
    irqPend := { s.irqPend with done := true } }) ∧
  ∀ s : State, s.cmdLatch = 0x00000001#32 → engineStep s = exec .clear s

/-! ### The host -/

/-- 20_memory.md R62: while BUSY = 1 a 32-bit read of STATUS or IRQ_PEND completes at once, returns the
register (STATUS with its bit 0 set), and leaves the command latched; every other access to the
aperture, read or write, is held at the head of the events, with no response, while the engine's step
clears BUSY. That this holds also for an access that will be refused is the model's reading of R62 (log
15). The events and responses are the model's form of the host's side (log 1, log 2). -/
def Obligations.OtherAccessesAreHeldWhileBusy : Prop :=
  ∀ (s : State) (a : Access) (rest : List HostEvent),
    s.status.busy = true → s.inputs = .access a :: rest → InAperture s.params (.access a) →
    (a = .read .w32 (s.params.blockBase + 0x004) →
      (readReg s .status).getLsbD 0 = true ∧
      step s = .next { s with
        inputs := rest, responses := s.responses ++ [.data (readReg s .status)] }) ∧
    (a = .read .w32 (s.params.blockBase + 0x010) →
      step s = .next { s with
        inputs := rest, responses := s.responses ++ [.data (readReg s .irqPend)] }) ∧
    (a ≠ .read .w32 (s.params.blockBase + 0x004) → a ≠ .read .w32 (s.params.blockBase + 0x010) →
      step s = engineStep s ∧
      ∀ t, step s = .next t → t.inputs = s.inputs ∧ t.responses = s.responses ∧
        t.status.busy = false)

/-- 20_memory.md R54: an access that is refused changes no state of the block: with BUSY = 0 it gives
the host a bus error and only its event is used up. The events and responses are the model's form of the
host's side (log 1, log 2). -/
def Obligations.BusErrorsChangeNothing : Prop :=
  ∀ (s t : State) (a : Access) (rest : List HostEvent),
    s.status.busy = false → s.inputs = .access a :: rest → step s = .next t →
    t.responses = s.responses ++ [.busError] →
    t = { s with inputs := rest, responses := s.responses ++ [.busError] }

/-- 20_memory.md R51, R52, R53, R56: exactly which accesses at an aperture offset are refused: register
accesses that are not 32-bit at a multiple of 4; buffer accesses of a size other than 8, 16 or 32 bits,
misaligned, or not wholly inside the buffer; writes to MET, BMP and ATLAS; and unmapped offsets. -/
def Obligations.RefusedAccesses : Prop :=
  ∀ (s : State) (w : Width) (off : Nat) (v : Word),
    let n := match w with | .w8 => 1 | .w16 => 2 | .w32 => 4 | .other => 0
    let within (base cap : Nat) : Prop := base ≤ off ∧ off + n ≤ base + cap
    let readable : Prop := n ≠ 0 ∧ off % n = 0 ∧
      (within 0x001000 148 ∨ within 0x100000 s.params.srcCap ∨ within 0x200000 s.params.idxCap ∨
        within 0x300000 s.params.bmpCap ∨ within 0x400000 s.params.atlasCap)
    let writable : Prop := n ≠ 0 ∧ off % n = 0 ∧
      (within 0x100000 s.params.srcCap ∨ within 0x200000 s.params.idxCap)
    s.params.Legal →
    ((hostRead w off s).1 ≠ .busError ↔ (off < 0x1000 ∧ w = .w32 ∧ off % 4 = 0) ∨ readable) ∧
    ((hostWrite w off v s).1 ≠ .busError ↔ (off < 0x1000 ∧ w = .w32 ∧ off % 4 = 0) ∨ writable)

/-- 20_memory.md R57: a host read changes no register and no buffer (only the model's count of draws).
The count of draws is the model's own (log 3). -/
def Obligations.HostReadsHaveNoSideEffect : Prop :=
  ∀ (w : Width) (off : Nat) (s : State),
    (hostRead w off s).2 = { s with draws := (hostRead w off s).2.draws }

/-- 10_state.md R26, R28 to R34, 20_memory.md R57: a host write of v to a read-write register, in an
open atlas to one that it does not lock, is performed without error; a read there then gives the stored
bits of v, the reserved bits 0; a read at every other offset of the window gives what it gave; and
nothing but an operand register or IRQ_EN changes: no buffer, no latched command. -/
def Obligations.RegistersReadBackTheirStoredBits : Prop :=
  ∀ (s : State) (v : Word),
    ∀ reg ∈ [(0x00C, 0x00000003#32), (0x014, 0x0000FFFF#32), (0x018, 0x0000FFFF#32),
        (0x01C, 0x000000FF#32), (0x020, 0x0000FFFF#32), (0x024, 0xFFFFFFFF#32), (0x028, 0xFFFFFFFF#32),
        (0x02C, 0xFFFFFFFF#32), (0x030, 0xFFFFFFFF#32), (0x034, 0xFFFFFFFF#32), (0x038, 0xFFFFFFFF#32),
        (0x03C, 0xFFFFFFFF#32)],
      s.status.atlasActive = false ∨ reg.1 ∉ [0x018, 0x020, 0x024, 0x028, 0x02C, 0x030] →
      ∃ t, hostWrite .w32 reg.1 v s = (.done, t) ∧
        hostRead .w32 reg.1 t = (.data (v &&& reg.2), t) ∧
        (∀ off, off < 0x1000 → off ≠ reg.1 → (hostRead .w32 off t).1 = (hostRead .w32 off s).1) ∧
        t = { s with op := t.op, irqEn := t.irqEn }

/-- 10_state.md R34: while ATLAS_ACTIVE = 1 a host write to CFG_HEIGHT (offset 0x018), RANGE (0x020) or
RSET0..RSET3 (0x024 .. 0x030) is performed without error and changes nothing, and a read returns the
register. -/
def Obligations.LockedRegistersIgnoreWrites : Prop :=
  ∀ (s : State) (v : Word), s.status.atlasActive = true →
    (∀ off ∈ [0x018, 0x020, 0x024, 0x028, 0x02C, 0x030], hostWrite .w32 off v s = (.done, s)) ∧
    hostRead .w32 0x018 s = (.data (s.op.cfgHeight.setWidth 32), s) ∧
    hostRead .w32 0x020 s = (.data (0#16 ++ s.op.rangeEnd ++ s.op.rangeStart), s) ∧
    hostRead .w32 0x024 s = (.data s.op.rset0, s) ∧ hostRead .w32 0x028 s = (.data s.op.rset1, s) ∧
    hostRead .w32 0x02C s = (.data s.op.rset2, s) ∧ hostRead .w32 0x030 s = (.data s.op.rset3, s)

/-- 10_state.md R22, 20_memory.md R52: a host write to a read-only register, or to an offset of the
window that names no register, is performed without error and changes nothing; and a read of such an
offset gives 0. -/
def Obligations.ReadOnlyRegistersIgnoreWrites : Prop :=
  ∀ (s : State) (v : Word) (off : Nat), off < 0x1000 → off % 4 = 0 →
    (off ∈ [0x004, 0x008] ∨ 0x040 ≤ off → hostWrite .w32 off v s = (.done, s)) ∧
    (0x060 ≤ off → hostRead .w32 off s = (.data 0, s))

/-- 10_state.md R23, R27: a write of v to CMD with BUSY = 0 latches v, sets BUSY and does nothing else
(a read of CMD gives 0); a write of v to IRQ_PEND clears the bits written as 1 and does nothing else.
The events and responses are the model's form of the host's side (log 1, log 2). -/
def Obligations.CmdWritesLatchAndPendWritesClear : Prop :=
  ∀ (s : State) (v : Word) (rest : List HostEvent), s.status.busy = false →
    (s.inputs = .access (.write .w32 s.params.blockBase v) :: rest →
      step s = .next { s with
        cmdLatch := v, status := { s.status with busy := true }, inputs := rest,
        responses := s.responses ++ [.done] }) ∧
    (s.inputs = .access (.read .w32 s.params.blockBase) :: rest →
      step s = .next { s with inputs := rest, responses := s.responses ++ [.data 0] }) ∧
    (s.inputs = .access (.write .w32 (s.params.blockBase + 0x010) v) :: rest →
      step s = .next { s with
        irqPend :=
          { done := s.irqPend.done && !v.getLsbD 0, err := s.irqPend.err && !v.getLsbD 1 },
        inputs := rest, responses := s.responses ++ [.done] })

/-- 10_state.md R24: what a host read of STATUS (offset 0x004) returns: each field at its bits, the
reserved bits 0. -/
def Obligations.StatusReadsItsFields : Prop :=
  ∀ s : State, ∃ v, hostRead .w32 0x004 s = (.data v, s) ∧
    v.getLsbD 0 = s.status.busy ∧ v.getLsbD 1 = s.status.err ∧
    v.getLsbD 2 = s.status.layoutValid ∧ v.getLsbD 3 = s.status.fmtValid ∧
    v.getLsbD 4 = s.status.atlasActive ∧ v.getLsbD 5 = s.status.atlasDone ∧
    v.getLsbD 6 = s.status.metValid ∧ v.getLsbD 7 = false ∧
    v.extractLsb' 8 8 = s.status.errCode ∧ v.extractLsb' 16 16 = 0

/-- 20_memory.md R51, R55: host byte order is little-endian. A 32-bit write to SRC or IDX at offset k
puts bits [8i+7:8i] in byte k + i and leaves every other byte of the buffer and everything else; a
32-bit read there then returns the value, and 16- and 8-bit reads its parts. A read of written bytes of
any of the five buffers, at its window, returns those bytes, the least significant first. -/
def Obligations.HostByteOrderIsLittleEndian : Prop :=
  (∀ (s : State) (b : Buffer) (k : Nat) (v : Word),
    (b = .src ∨ b = .idx) → s.params.Legal → k % 4 = 0 → k + 4 ≤ capacity s.params b →
    ∃ t, hostWrite .w32 (bufferBase b + k) v s = (.done, t) ∧
      (∀ i, i < 4 → (t.buf b).get? (k + i) = some (v.extractLsb' (8 * i) 8)) ∧
      (∀ a, a < k ∨ k + 4 ≤ a → (t.buf b).get? a = (s.buf b).get? a) ∧
      t = s.setBuf b (t.buf b) ∧
      (hostRead .w32 (bufferBase b + k) t).1 = .data v ∧
      (hostRead .w16 (bufferBase b + k) t).1 = .data (v &&& 0x0000FFFF#32) ∧
      (hostRead .w16 (bufferBase b + k + 2) t).1 = .data (v >>> 16) ∧
      (hostRead .w8 (bufferBase b + k + 3) t).1 = .data (v >>> 24)) ∧
  ∀ (s : State) (k : Nat) (v : Word), s.params.Legal →
    ∀ p ∈ [(s.met, 0x001000, 148), (s.src, 0x100000, s.params.srcCap),
        (s.idx, 0x200000, s.params.idxCap), (s.bmp, 0x300000, s.params.bmpCap),
        (s.atlas, 0x400000, s.params.atlasCap)],
      let holds (n : Nat) : Prop := k % n = 0 ∧ k + n ≤ p.2.2 ∧
        ∀ i, i < n → p.1.get? (k + i) = some (v.extractLsb' (8 * i) 8)
      (holds 1 → (hostRead .w8 (p.2.1 + k) s).1 = .data (v &&& 0x000000FF#32)) ∧
      (holds 2 → (hostRead .w16 (p.2.1 + k) s).1 = .data (v &&& 0x0000FFFF#32)) ∧
      (holds 4 → (hostRead .w32 (p.2.1 + k) s).1 = .data v)

/-- 20_memory.md R53, R55: an 8-bit write stores one byte, a 16-bit write two, at the offset written. -/
def Obligations.NarrowWritesStoreTheirBytesOnly : Prop :=
  ∀ (s : State) (b : Buffer) (k : Nat) (v : Word), (b = .src ∨ b = .idx) → s.params.Legal →
    (k + 1 ≤ capacity s.params b →
      ∃ t, hostWrite .w8 (bufferBase b + k) v s = (.done, t) ∧
        (t.buf b).get? k = some (v.extractLsb' 0 8) ∧
        (∀ a, a ≠ k → (t.buf b).get? a = (s.buf b).get? a) ∧ t = s.setBuf b (t.buf b)) ∧
    (k % 2 = 0 → k + 2 ≤ capacity s.params b →
      ∃ t, hostWrite .w16 (bufferBase b + k) v s = (.done, t) ∧
        (t.buf b).get? k = some (v.extractLsb' 0 8) ∧
        (t.buf b).get? (k + 1) = some (v.extractLsb' 8 8) ∧
        (∀ a, a ≠ k → a ≠ k + 1 → (t.buf b).get? a = (s.buf b).get? a) ∧ t = s.setBuf b (t.buf b))

/-- 20_memory.md R51, R55, 43_metrics.md R141, R142: after METRICS an 8-bit host read at aperture offset
0x1000 + c returns the width of code c; a 32-bit one at 0x1080 (MET offset 128) returns FMT, and at the
next four words STRIDE, PADW, H and 0. -/
def Obligations.HostReadsTheMetricsFields : Prop :=
  ∀ s t : State, s.status.err = false → exec .metrics s = .next t → t.status.err = false →
    (∀ c, c < 128 → (hostRead .w8 (0x1000 + c) t).1 =
      .data (if s.op.rset c then s.op.cfgAdvance.setWidth 32 else 0)) ∧
    (hostRead .w32 0x1080 t).1 = .data s.layout.fmt ∧
    (hostRead .w32 0x1084 t).1 = .data s.layout.stride ∧
    (hostRead .w32 0x1088 t).1 = .data s.layout.padw ∧
    (hostRead .w32 0x108C t).1 = .data (BitVec.ofNat 32 s.height) ∧
    (hostRead .w32 0x1090 t).1 = .data 0

/-- 70_reset_and_hazards.md R190, R191, 10_state.md R46: a reset between two steps puts every register
and flag at 0, discards a latched command, leaves nothing known of any buffer, and deasserts the
interrupt: every word of the register window then reads 0. The model's choices: what a reset keeps, the
parameters and the host's events, responses and draws (log 14; log 1 to log 4); and that an idle block
with no host event stays as it is (log 6). -/
def Obligations.ResetReturnsToIdle : Prop :=
  ∀ (s : State) (rest : List HostEvent),
    (s.inputs = .reset :: rest →
      ∃ t, step s = .next t ∧
        t = {
          params := s.params
          cmdLatch := 0
          status := {
            busy := false, err := false, layoutValid := false, fmtValid := false,
            atlasActive := false, atlasDone := false, metValid := false, errCode := 0 }
          errCmd := 0
          irqEn := { done := false, err := false }
          irqPend := { done := false, err := false }
          op := {
            cfgWidth := 0, cfgHeight := 0, cfgAdvance := 0, rangeStart := 0, rangeEnd := 0,
            rset0 := 0, rset1 := 0, rset2 := 0, rset3 := 0, srcOff := 0, idxOff := 0, len := 0 }
          layout := { padw := 0, stride := 0, fmt := 0, layoutBd := 0, layoutWidth := 0 }
          byteCount := 0
          nextCode := 0
          atlasBase := 0
          src := [], idx := [], bmp := [], atlas := [], met := []
          inputs := rest
          responses := s.responses
          draws := s.draws } ∧
        (∀ off, off < 0x1000 → off % 4 = 0 → hostRead .w32 off t = (.data 0, t)) ∧ t.irq = false ∧
        ∀ (b : Buffer) (a : Nat), (t.buf b).get? a = none) ∧
    (s.inputs = [] → s.status.busy = false → step s = .next s)

/-- 60_exceptions.md R175: the interrupt output is (IRQ_EN[0] and IRQ_PEND[0]) or (IRQ_EN[1] and
IRQ_PEND[1]), with the bits the host reads. -/
def Obligations.InterruptOutput : Prop :=
  ∀ s : State, s.irq =
    ((readReg s .irqEn).getLsbD 0 && (readReg s .irqPend).getLsbD 0 ||
      (readReg s .irqEn).getLsbD 1 && (readReg s .irqPend).getLsbD 1)

/-- 10_state.md R22 to R33, R37 to R39: what a 32-bit host read of each register returns, at the
register's offset: its stored bits, the reserved bits 0, and CMD as 0; and the read changes nothing.
(STATUS at 0x004 is StatusReadsItsFields.) -/
def Obligations.HostReadsReturnTheRegisters : Prop :=
  ∀ s : State,
    let reads (off : Nat) (v : Word) : Prop := hostRead .w32 off s = (.data v, s)
    reads 0x000 0 ∧ reads 0x008 s.errCmd ∧
    reads 0x00C (0#30 ++ BitVec.ofBool s.irqEn.err ++ BitVec.ofBool s.irqEn.done) ∧
    reads 0x010 (0#30 ++ BitVec.ofBool s.irqPend.err ++ BitVec.ofBool s.irqPend.done) ∧
    reads 0x014 (s.op.cfgWidth.setWidth 32) ∧ reads 0x018 (s.op.cfgHeight.setWidth 32) ∧
    reads 0x01C (s.op.cfgAdvance.setWidth 32) ∧
    reads 0x020 (0#16 ++ s.op.rangeEnd ++ s.op.rangeStart) ∧
    reads 0x024 s.op.rset0 ∧ reads 0x028 s.op.rset1 ∧ reads 0x02C s.op.rset2 ∧
    reads 0x030 s.op.rset3 ∧ reads 0x034 s.op.srcOff ∧ reads 0x038 s.op.idxOff ∧
    reads 0x03C s.op.len ∧ reads 0x040 s.layout.padw ∧ reads 0x044 s.layout.stride ∧
    reads 0x048 s.layout.fmt ∧ reads 0x04C (s.layout.layoutBd.setWidth 32) ∧
    reads 0x050 (s.layout.layoutWidth.setWidth 32) ∧ reads 0x054 s.byteCount ∧
    reads 0x058 (s.nextCode.setWidth 32) ∧ reads 0x05C s.atlasBase
end

