-- ==== Sys2Proof/Laws/Pixels.lean ====
section
/-! SUPPORT. The laws of the data path: lengths and elements of packed, padded and read bytes. -/

namespace Sys2Proof.Machine

/-! ### Depths -/

theorem Depth.ofNat?_eq_some {n : Nat} {d : Depth} : Depth.ofNat? n = some d ↔ n = d.bits := by
  constructor
  · intro h
    unfold Depth.ofNat? at h
    split at h <;> cases h <;> rfl
  · rintro rfl; cases d <;> rfl

theorem PackDepth.ofNat?_eq_some {n : Nat} {d : PackDepth} :
    PackDepth.ofNat? n = some d ↔ n = d.depth.bits := by
  constructor
  · intro h
    unfold PackDepth.ofNat? at h
    split at h <;> cases h <;> rfl
  · rintro rfl; cases d <;> rfl

theorem Depth.ofNat?_eq_none {n : Nat} : Depth.ofNat? n = none ↔ n ≠ 1 ∧ n ≠ 4 ∧ n ≠ 8 := by
  unfold Depth.ofNat?
  split <;> simp_all

theorem PackDepth.ofNat?_eq_none {n : Nat} : PackDepth.ofNat? n = none ↔ n ≠ 4 ∧ n ≠ 8 := by
  unfold PackDepth.ofNat?
  split <;> simp_all

/-! ### Widths -/

theorem paddedWidth_eight (w : Nat) : paddedWidth w 8 = w := by
  unfold paddedWidth ceilDiv; omega

theorem paddedWidth_four (w : Nat) : paddedWidth w 4 = w + w % 2 := by
  unfold paddedWidth ceilDiv; omega

theorem paddedWidth_one (w : Nat) : paddedWidth w 1 = 8 * ((w + 7) / 8) := by
  unfold paddedWidth ceilDiv; omega

/-- The padded width is no less than the width. -/
theorem le_paddedWidth (w : Nat) (d : Depth) : w ≤ paddedWidth w d.bits := by
  cases d <;> simp only [Depth.bits, paddedWidth_one, paddedWidth_four, paddedWidth_eight] <;> omega

/-- A padded row is a whole number of bytes: the linestride. -/
theorem paddedWidth_mul_bits (w : Nat) (d : Depth) :
    paddedWidth w d.bits * d.bits = 8 * lineStride w d.bits := by
  cases d <;>
    simp only [lineStride, Depth.bits, paddedWidth_one, paddedWidth_four, paddedWidth_eight] <;> omega

/-- The layout of a 16-bit width fits the 32-bit registers (40_layout.md R94). -/
theorem paddedWidth_le (w : Half) (d : Depth) : paddedWidth w.toNat d.bits ≤ 65536 := by
  have := w.isLt
  cases d <;> simp only [Depth.bits, paddedWidth_one, paddedWidth_four, paddedWidth_eight] <;> omega

theorem lineStride_le (w : Half) (d : Depth) : lineStride w.toNat d.bits ≤ 65535 := by
  have := w.isLt
  cases d <;>
    simp only [lineStride, Depth.bits, paddedWidth_one, paddedWidth_four, paddedWidth_eight] <;> omega

/-! ### The packer -/

theorem length_packNibbles (a : List Byte) : (packNibbles a).length = ceilDiv a.length 2 := by
  induction a using packNibbles.induct with
  | case1 => rfl
  | case2 a => simp [packNibbles, ceilDiv]
  | case3 a b rest ih => simp only [packNibbles, List.length_cons, ih, ceilDiv]; omega

/-- Byte i of the packed bytes is the pair of indices 2i and 2i + 1, the missing last one 0. -/
theorem getElem?_packNibbles (a : List Byte) (i : Nat) :
    (packNibbles a)[i]? = (a[2 * i]?).map fun hi => packPair hi ((a[2 * i + 1]?).getD 0) := by
  induction a using packNibbles.induct generalizing i with
  | case1 => simp [packNibbles]
  | case2 a => cases i <;> simp [packNibbles]
  | case3 a b rest ih =>
    cases i with
    | zero => simp [packNibbles]
    | succ i => simp [packNibbles, ih, show 2 * (i + 1) = 2 * i + 1 + 1 by omega]

/-- The packer's output has the length PACK counts (41_quantize_pack.md R107). -/
theorem length_pack (d : PackDepth) (a : List Byte) : (pack d a).length = packedLength d a.length := by
  cases d
  · exact length_packNibbles a
  · rfl

/-- Packing zeros gives zeros (42_atlas.md R126). -/
theorem pack_replicate_zero (d : PackDepth) (n : Nat) :
    pack d (List.replicate n 0) = List.replicate (packedLength d n) 0 := by
  refine List.ext_getElem? fun i => ?_
  cases d
  · have hzero : packPair 0#8 0#8 = 0#8 := by decide
    simp only [pack, getElem?_packNibbles, List.getElem?_replicate, packedLength, ceilDiv]
    by_cases h : 2 * i < n
    · have hi : i < (n + 2 - 1) / 2 := by omega
      by_cases h' : 2 * i + 1 < n <;> simp only [h, h', hi, if_true, if_false] <;> simp [hzero]
    · have hi : ¬i < (n + 2 - 1) / 2 := by omega
      simp only [h, hi, if_false]; rfl
  · rfl

/-! ### Row padding -/

theorem length_rowPad {w p h : Nat} {q : List Byte} (hq : q.length = w * h) (hwp : w ≤ p) :
    (rowPad w p h q).length = p * h := by
  induction h generalizing q with
  | zero => simp [rowPad]
  | succ h ih =>
    have hw : w ≤ q.length := by rw [hq]; exact Nat.le_mul_of_pos_right w (by omega)
    have hd : (q.drop w).length = w * h := by rw [List.length_drop, hq, Nat.mul_succ]; omega
    simp only [rowPad, List.length_append, List.length_take, List.length_replicate, ih hd,
      Nat.mul_succ]
    omega

/-- Row r, column c of the padded grid (41_quantize_pack.md R111). -/
theorem getElem?_rowPad {w p h : Nat} {q : List Byte} (hq : q.length = w * h) (hwp : w ≤ p)
    {r c : Nat} (hr : r < h) (hc : c < p) :
    (rowPad w p h q)[r * p + c]? = if c < w then q[r * w + c]? else some 0 := by
  induction h generalizing q r with
  | zero => omega
  | succ h ih =>
    have hw : w ≤ q.length := by rw [hq]; exact Nat.le_mul_of_pos_right w (by omega)
    have hd : (q.drop w).length = w * h := by rw [List.length_drop, hq, Nat.mul_succ]; omega
    have ht : (q.take w).length = w := by rw [List.length_take]; omega
    rw [rowPad]
    cases r with
    | zero =>
      simp only [Nat.zero_mul, Nat.zero_add]
      by_cases hcw : c < w
      · rw [List.getElem?_append_left (by omega), if_pos hcw, List.getElem?_take_of_lt hcw]
      · rw [List.getElem?_append_right (by omega), if_neg hcw, ht,
          List.getElem?_append_left (by rw [List.length_replicate]; omega),
          List.getElem?_replicate, if_pos (by omega)]
    | succ r =>
      rw [List.getElem?_append_right (by rw [ht, Nat.succ_mul]; omega), ht,
        List.getElem?_append_right (by rw [List.length_replicate, Nat.succ_mul]; omega),
        List.length_replicate,
        show (r + 1) * p + c - w - (p - w) = r * p + c by rw [Nat.succ_mul]; omega,
        ih hd (by omega), List.getElem?_drop]
      simp only [show w + (r * w + c) = (r + 1) * w + c by rw [Nat.succ_mul]; omega]

/-- A packed image of a layout has exactly STRIDE * h bytes (41_quantize_pack.md R111). -/
theorem length_packImage {d : PackDepth} {w h p : Nat} {x : List Byte} (hx : x.length = w * h)
    (hp : p = paddedWidth w d.depth.bits) :
    (packImage d w h p x).length = lineStride w d.depth.bits * h := by
  have hwp : w ≤ p := hp ▸ le_paddedWidth w d.depth
  have hb := paddedWidth_mul_bits w d.depth
  rw [packImage, length_pack, length_rowPad (by simpa using hx) hwp, hp]
  cases d
  · simp only [packedLength, ceilDiv, PackDepth.depth, Depth.bits] at *
    have : paddedWidth w 4 = 2 * lineStride w 4 := by omega
    rw [this, Nat.mul_assoc]; omega
  · simp only [packedLength, PackDepth.depth, Depth.bits] at *
    have : paddedWidth w 8 = lineStride w 8 := by omega
    rw [this]

/-! ### Little-endian bytes -/

theorem length_bytesOf (n : Nat) (v : Word) : (bytesOf n v).length = n := by
  induction n generalizing v with
  | zero => rfl
  | succ n ih => simp [bytesOf, ih]

@[simp] theorem length_le32 (v : Word) : (le32 v).length = 4 := length_bytesOf 4 v

/-! ### Reads -/

@[simp] theorem length_memRead (b : Buffer) (off n : Nat) (s : State) :
    (memRead b off n s).length = n := by
  simp [memRead]

/-- Byte i of a read is the byte last written there, or the draw of that read. -/
theorem getElem?_memRead (b : Buffer) (off n : Nat) (s : State) (i : Nat) (h : i < n) :
    (memRead b off n s)[i]? = some (((s.buf b).get? (off + i)).getD (Config.drawByte (s.draws + i))) := by
  simp [memRead, h, Memory.byteOr]

/-- A read of written bytes takes no draw. -/
theorem getElem?_memRead_written {b : Buffer} {off n : Nat} {s : State} {i : Nat} {v : Byte} (h : i < n)
    (hv : (s.buf b).get? (off + i) = some v) : (memRead b off n s)[i]? = some v := by
  rw [getElem?_memRead b off n s i h, hv]; rfl

end Sys2Proof.Machine
end

