-- ==== Sys2Proof/Laws/State.lean ====
section
/-! SUPPORT. One lemma per field of the state and update of the machine: what the update leaves in the
field. -/

namespace Sys2Proof.Machine

/-! `complete`: BUSY and IRQ_PEND.DONE. -/

@[simp] theorem complete_params (s : State) : (complete s).params = s.params := rfl
@[simp] theorem complete_cmdLatch (s : State) : (complete s).cmdLatch = s.cmdLatch := rfl
@[simp] theorem complete_status (s : State) : (complete s).status = { s.status with busy := false } := rfl
@[simp] theorem complete_errCmd (s : State) : (complete s).errCmd = s.errCmd := rfl
@[simp] theorem complete_irqEn (s : State) : (complete s).irqEn = s.irqEn := rfl
@[simp] theorem complete_irqPend (s : State) : (complete s).irqPend = { s.irqPend with done := true } := rfl
@[simp] theorem complete_op (s : State) : (complete s).op = s.op := rfl
@[simp] theorem complete_layout (s : State) : (complete s).layout = s.layout := rfl
@[simp] theorem complete_byteCount (s : State) : (complete s).byteCount = s.byteCount := rfl
@[simp] theorem complete_nextCode (s : State) : (complete s).nextCode = s.nextCode := rfl
@[simp] theorem complete_atlasBase (s : State) : (complete s).atlasBase = s.atlasBase := rfl
@[simp] theorem complete_src (s : State) : (complete s).src = s.src := rfl
@[simp] theorem complete_idx (s : State) : (complete s).idx = s.idx := rfl
@[simp] theorem complete_bmp (s : State) : (complete s).bmp = s.bmp := rfl
@[simp] theorem complete_atlas (s : State) : (complete s).atlas = s.atlas := rfl
@[simp] theorem complete_met (s : State) : (complete s).met = s.met := rfl
@[simp] theorem complete_inputs (s : State) : (complete s).inputs = s.inputs := rfl
@[simp] theorem complete_responses (s : State) : (complete s).responses = s.responses := rfl
@[simp] theorem complete_draws (s : State) : (complete s).draws = s.draws := rfl


/-! `faultEntry`: STATUS, ERRCMD and IRQ_PEND.ERR. -/

@[simp] theorem faultEntry_params (c : FaultCode) (s : State) : (faultEntry c s).params = s.params := rfl
@[simp] theorem faultEntry_cmdLatch (c : FaultCode) (s : State) : (faultEntry c s).cmdLatch = s.cmdLatch := rfl
@[simp] theorem faultEntry_status (c : FaultCode) (s : State) : (faultEntry c s).status = faultStatus c s.status := rfl
@[simp] theorem faultEntry_errCmd (c : FaultCode) (s : State) : (faultEntry c s).errCmd = s.cmdLatch := rfl
@[simp] theorem faultEntry_irqEn (c : FaultCode) (s : State) : (faultEntry c s).irqEn = s.irqEn := rfl
@[simp] theorem faultEntry_irqPend (c : FaultCode) (s : State) : (faultEntry c s).irqPend = { s.irqPend with err := true } := rfl
@[simp] theorem faultEntry_op (c : FaultCode) (s : State) : (faultEntry c s).op = s.op := rfl
@[simp] theorem faultEntry_layout (c : FaultCode) (s : State) : (faultEntry c s).layout = s.layout := rfl
@[simp] theorem faultEntry_byteCount (c : FaultCode) (s : State) : (faultEntry c s).byteCount = s.byteCount := rfl
@[simp] theorem faultEntry_nextCode (c : FaultCode) (s : State) : (faultEntry c s).nextCode = s.nextCode := rfl
@[simp] theorem faultEntry_atlasBase (c : FaultCode) (s : State) : (faultEntry c s).atlasBase = s.atlasBase := rfl
@[simp] theorem faultEntry_src (c : FaultCode) (s : State) : (faultEntry c s).src = s.src := rfl
@[simp] theorem faultEntry_idx (c : FaultCode) (s : State) : (faultEntry c s).idx = s.idx := rfl
@[simp] theorem faultEntry_bmp (c : FaultCode) (s : State) : (faultEntry c s).bmp = s.bmp := rfl
@[simp] theorem faultEntry_atlas (c : FaultCode) (s : State) : (faultEntry c s).atlas = s.atlas := rfl
@[simp] theorem faultEntry_met (c : FaultCode) (s : State) : (faultEntry c s).met = s.met := rfl
@[simp] theorem faultEntry_inputs (c : FaultCode) (s : State) : (faultEntry c s).inputs = s.inputs := rfl
@[simp] theorem faultEntry_responses (c : FaultCode) (s : State) : (faultEntry c s).responses = s.responses := rfl
@[simp] theorem faultEntry_draws (c : FaultCode) (s : State) : (faultEntry c s).draws = s.draws := rfl


/-! `dropCommand`: BUSY. -/

@[simp] theorem dropCommand_params (s : State) : (dropCommand s).params = s.params := rfl
@[simp] theorem dropCommand_cmdLatch (s : State) : (dropCommand s).cmdLatch = s.cmdLatch := rfl
@[simp] theorem dropCommand_status (s : State) : (dropCommand s).status = { s.status with busy := false } := rfl
@[simp] theorem dropCommand_errCmd (s : State) : (dropCommand s).errCmd = s.errCmd := rfl
@[simp] theorem dropCommand_irqEn (s : State) : (dropCommand s).irqEn = s.irqEn := rfl
@[simp] theorem dropCommand_irqPend (s : State) : (dropCommand s).irqPend = s.irqPend := rfl
@[simp] theorem dropCommand_op (s : State) : (dropCommand s).op = s.op := rfl
@[simp] theorem dropCommand_layout (s : State) : (dropCommand s).layout = s.layout := rfl
@[simp] theorem dropCommand_byteCount (s : State) : (dropCommand s).byteCount = s.byteCount := rfl
@[simp] theorem dropCommand_nextCode (s : State) : (dropCommand s).nextCode = s.nextCode := rfl
@[simp] theorem dropCommand_atlasBase (s : State) : (dropCommand s).atlasBase = s.atlasBase := rfl
@[simp] theorem dropCommand_src (s : State) : (dropCommand s).src = s.src := rfl
@[simp] theorem dropCommand_idx (s : State) : (dropCommand s).idx = s.idx := rfl
@[simp] theorem dropCommand_bmp (s : State) : (dropCommand s).bmp = s.bmp := rfl
@[simp] theorem dropCommand_atlas (s : State) : (dropCommand s).atlas = s.atlas := rfl
@[simp] theorem dropCommand_met (s : State) : (dropCommand s).met = s.met := rfl
@[simp] theorem dropCommand_inputs (s : State) : (dropCommand s).inputs = s.inputs := rfl
@[simp] theorem dropCommand_responses (s : State) : (dropCommand s).responses = s.responses := rfl
@[simp] theorem dropCommand_draws (s : State) : (dropCommand s).draws = s.draws := rfl


/-! `clearRun`: STATUS, ERRCMD and the counts. -/

@[simp] theorem clearRun_params (s : State) : (clearRun s).params = s.params := rfl
@[simp] theorem clearRun_cmdLatch (s : State) : (clearRun s).cmdLatch = s.cmdLatch := rfl
@[simp] theorem clearRun_status (s : State) : (clearRun s).status = clearedStatus s.status := rfl
@[simp] theorem clearRun_errCmd (s : State) : (clearRun s).errCmd = 0 := rfl
@[simp] theorem clearRun_irqEn (s : State) : (clearRun s).irqEn = s.irqEn := rfl
@[simp] theorem clearRun_irqPend (s : State) : (clearRun s).irqPend = s.irqPend := rfl
@[simp] theorem clearRun_op (s : State) : (clearRun s).op = s.op := rfl
@[simp] theorem clearRun_layout (s : State) : (clearRun s).layout = s.layout := rfl
@[simp] theorem clearRun_byteCount (s : State) : (clearRun s).byteCount = 0 := rfl
@[simp] theorem clearRun_nextCode (s : State) : (clearRun s).nextCode = 0 := rfl
@[simp] theorem clearRun_atlasBase (s : State) : (clearRun s).atlasBase = 0 := rfl
@[simp] theorem clearRun_src (s : State) : (clearRun s).src = s.src := rfl
@[simp] theorem clearRun_idx (s : State) : (clearRun s).idx = s.idx := rfl
@[simp] theorem clearRun_bmp (s : State) : (clearRun s).bmp = s.bmp := rfl
@[simp] theorem clearRun_atlas (s : State) : (clearRun s).atlas = s.atlas := rfl
@[simp] theorem clearRun_met (s : State) : (clearRun s).met = s.met := rfl
@[simp] theorem clearRun_inputs (s : State) : (clearRun s).inputs = s.inputs := rfl
@[simp] theorem clearRun_responses (s : State) : (clearRun s).responses = s.responses := rfl
@[simp] theorem clearRun_draws (s : State) : (clearRun s).draws = s.draws := rfl


/-! `drawn`: the draw counter. -/

@[simp] theorem drawn_params (n : Nat) (s : State) : (drawn n s).params = s.params := rfl
@[simp] theorem drawn_cmdLatch (n : Nat) (s : State) : (drawn n s).cmdLatch = s.cmdLatch := rfl
@[simp] theorem drawn_status (n : Nat) (s : State) : (drawn n s).status = s.status := rfl
@[simp] theorem drawn_errCmd (n : Nat) (s : State) : (drawn n s).errCmd = s.errCmd := rfl
@[simp] theorem drawn_irqEn (n : Nat) (s : State) : (drawn n s).irqEn = s.irqEn := rfl
@[simp] theorem drawn_irqPend (n : Nat) (s : State) : (drawn n s).irqPend = s.irqPend := rfl
@[simp] theorem drawn_op (n : Nat) (s : State) : (drawn n s).op = s.op := rfl
@[simp] theorem drawn_layout (n : Nat) (s : State) : (drawn n s).layout = s.layout := rfl
@[simp] theorem drawn_byteCount (n : Nat) (s : State) : (drawn n s).byteCount = s.byteCount := rfl
@[simp] theorem drawn_nextCode (n : Nat) (s : State) : (drawn n s).nextCode = s.nextCode := rfl
@[simp] theorem drawn_atlasBase (n : Nat) (s : State) : (drawn n s).atlasBase = s.atlasBase := rfl
@[simp] theorem drawn_src (n : Nat) (s : State) : (drawn n s).src = s.src := rfl
@[simp] theorem drawn_idx (n : Nat) (s : State) : (drawn n s).idx = s.idx := rfl
@[simp] theorem drawn_bmp (n : Nat) (s : State) : (drawn n s).bmp = s.bmp := rfl
@[simp] theorem drawn_atlas (n : Nat) (s : State) : (drawn n s).atlas = s.atlas := rfl
@[simp] theorem drawn_met (n : Nat) (s : State) : (drawn n s).met = s.met := rfl
@[simp] theorem drawn_inputs (n : Nat) (s : State) : (drawn n s).inputs = s.inputs := rfl
@[simp] theorem drawn_responses (n : Nat) (s : State) : (drawn n s).responses = s.responses := rfl
@[simp] theorem drawn_draws (n : Nat) (s : State) : (drawn n s).draws = s.draws + n := rfl


/-! `setLayout`: the layout registers and STATUS. -/

@[simp] theorem setLayout_params (d : Depth) (s : State) : (setLayout d s).params = s.params := rfl
@[simp] theorem setLayout_cmdLatch (d : Depth) (s : State) : (setLayout d s).cmdLatch = s.cmdLatch := rfl
@[simp] theorem setLayout_status (d : Depth) (s : State) : (setLayout d s).status = layoutStatus (d != .one) s.status := rfl
@[simp] theorem setLayout_errCmd (d : Depth) (s : State) : (setLayout d s).errCmd = s.errCmd := rfl
@[simp] theorem setLayout_irqEn (d : Depth) (s : State) : (setLayout d s).irqEn = s.irqEn := rfl
@[simp] theorem setLayout_irqPend (d : Depth) (s : State) : (setLayout d s).irqPend = s.irqPend := rfl
@[simp] theorem setLayout_op (d : Depth) (s : State) : (setLayout d s).op = s.op := rfl
@[simp] theorem setLayout_layout (d : Depth) (s : State) : (setLayout d s).layout = layoutRegsOf s.params s.op.cfgWidth d := rfl
@[simp] theorem setLayout_byteCount (d : Depth) (s : State) : (setLayout d s).byteCount = s.byteCount := rfl
@[simp] theorem setLayout_nextCode (d : Depth) (s : State) : (setLayout d s).nextCode = s.nextCode := rfl
@[simp] theorem setLayout_atlasBase (d : Depth) (s : State) : (setLayout d s).atlasBase = s.atlasBase := rfl
@[simp] theorem setLayout_src (d : Depth) (s : State) : (setLayout d s).src = s.src := rfl
@[simp] theorem setLayout_idx (d : Depth) (s : State) : (setLayout d s).idx = s.idx := rfl
@[simp] theorem setLayout_bmp (d : Depth) (s : State) : (setLayout d s).bmp = s.bmp := rfl
@[simp] theorem setLayout_atlas (d : Depth) (s : State) : (setLayout d s).atlas = s.atlas := rfl
@[simp] theorem setLayout_met (d : Depth) (s : State) : (setLayout d s).met = s.met := rfl
@[simp] theorem setLayout_inputs (d : Depth) (s : State) : (setLayout d s).inputs = s.inputs := rfl
@[simp] theorem setLayout_responses (d : Depth) (s : State) : (setLayout d s).responses = s.responses := rfl
@[simp] theorem setLayout_draws (d : Depth) (s : State) : (setLayout d s).draws = s.draws := rfl


/-! `openAtlas`: the preview, ATLAS_BASE, NEXT_CODE and STATUS. -/

@[simp] theorem openAtlas_params (s : State) : (openAtlas s).params = s.params := rfl
@[simp] theorem openAtlas_cmdLatch (s : State) : (openAtlas s).cmdLatch = s.cmdLatch := rfl
@[simp] theorem openAtlas_status (s : State) : (openAtlas s).status = atlasOpenStatus s.status := rfl
@[simp] theorem openAtlas_errCmd (s : State) : (openAtlas s).errCmd = s.errCmd := rfl
@[simp] theorem openAtlas_irqEn (s : State) : (openAtlas s).irqEn = s.irqEn := rfl
@[simp] theorem openAtlas_irqPend (s : State) : (openAtlas s).irqPend = s.irqPend := rfl
@[simp] theorem openAtlas_op (s : State) : (openAtlas s).op = s.op := rfl
@[simp] theorem openAtlas_layout (s : State) : (openAtlas s).layout = s.layout := rfl
@[simp] theorem openAtlas_byteCount (s : State) : (openAtlas s).byteCount = s.byteCount := rfl
@[simp] theorem openAtlas_nextCode (s : State) : (openAtlas s).nextCode = s.op.rangeStart := rfl
@[simp] theorem openAtlas_atlasBase (s : State) : (openAtlas s).atlasBase = s.byteCount := rfl
@[simp] theorem openAtlas_src (s : State) : (openAtlas s).src = s.src := rfl
@[simp] theorem openAtlas_idx (s : State) : (openAtlas s).idx = s.idx := rfl
@[simp] theorem openAtlas_bmp (s : State) : (openAtlas s).bmp = s.bmp := rfl
@[simp] theorem openAtlas_atlas (s : State) : (openAtlas s).atlas = s.atlas.write 0 (List.replicate (s.padw * s.height * s.op.nCodes) 0) := rfl
@[simp] theorem openAtlas_met (s : State) : (openAtlas s).met = s.met := rfl
@[simp] theorem openAtlas_inputs (s : State) : (openAtlas s).inputs = s.inputs := rfl
@[simp] theorem openAtlas_responses (s : State) : (openAtlas s).responses = s.responses := rfl
@[simp] theorem openAtlas_draws (s : State) : (openAtlas s).draws = s.draws := rfl


/-! `advanceCode`: NEXT_CODE. -/

@[simp] theorem advanceCode_params (s : State) : (advanceCode s).params = s.params := rfl
@[simp] theorem advanceCode_cmdLatch (s : State) : (advanceCode s).cmdLatch = s.cmdLatch := rfl
@[simp] theorem advanceCode_status (s : State) : (advanceCode s).status = s.status := rfl
@[simp] theorem advanceCode_errCmd (s : State) : (advanceCode s).errCmd = s.errCmd := rfl
@[simp] theorem advanceCode_irqEn (s : State) : (advanceCode s).irqEn = s.irqEn := rfl
@[simp] theorem advanceCode_irqPend (s : State) : (advanceCode s).irqPend = s.irqPend := rfl
@[simp] theorem advanceCode_op (s : State) : (advanceCode s).op = s.op := rfl
@[simp] theorem advanceCode_layout (s : State) : (advanceCode s).layout = s.layout := rfl
@[simp] theorem advanceCode_byteCount (s : State) : (advanceCode s).byteCount = s.byteCount := rfl
@[simp] theorem advanceCode_nextCode (s : State) : (advanceCode s).nextCode = s.nextCode + 1 := rfl
@[simp] theorem advanceCode_atlasBase (s : State) : (advanceCode s).atlasBase = s.atlasBase := rfl
@[simp] theorem advanceCode_src (s : State) : (advanceCode s).src = s.src := rfl
@[simp] theorem advanceCode_idx (s : State) : (advanceCode s).idx = s.idx := rfl
@[simp] theorem advanceCode_bmp (s : State) : (advanceCode s).bmp = s.bmp := rfl
@[simp] theorem advanceCode_atlas (s : State) : (advanceCode s).atlas = s.atlas := rfl
@[simp] theorem advanceCode_met (s : State) : (advanceCode s).met = s.met := rfl
@[simp] theorem advanceCode_inputs (s : State) : (advanceCode s).inputs = s.inputs := rfl
@[simp] theorem advanceCode_responses (s : State) : (advanceCode s).responses = s.responses := rfl
@[simp] theorem advanceCode_draws (s : State) : (advanceCode s).draws = s.draws := rfl


/-! `closeAtlas`: STATUS. -/

@[simp] theorem closeAtlas_params (s : State) : (closeAtlas s).params = s.params := rfl
@[simp] theorem closeAtlas_cmdLatch (s : State) : (closeAtlas s).cmdLatch = s.cmdLatch := rfl
@[simp] theorem closeAtlas_status (s : State) : (closeAtlas s).status = atlasClosedStatus s.status := rfl
@[simp] theorem closeAtlas_errCmd (s : State) : (closeAtlas s).errCmd = s.errCmd := rfl
@[simp] theorem closeAtlas_irqEn (s : State) : (closeAtlas s).irqEn = s.irqEn := rfl
@[simp] theorem closeAtlas_irqPend (s : State) : (closeAtlas s).irqPend = s.irqPend := rfl
@[simp] theorem closeAtlas_op (s : State) : (closeAtlas s).op = s.op := rfl
@[simp] theorem closeAtlas_layout (s : State) : (closeAtlas s).layout = s.layout := rfl
@[simp] theorem closeAtlas_byteCount (s : State) : (closeAtlas s).byteCount = s.byteCount := rfl
@[simp] theorem closeAtlas_nextCode (s : State) : (closeAtlas s).nextCode = s.nextCode := rfl
@[simp] theorem closeAtlas_atlasBase (s : State) : (closeAtlas s).atlasBase = s.atlasBase := rfl
@[simp] theorem closeAtlas_src (s : State) : (closeAtlas s).src = s.src := rfl
@[simp] theorem closeAtlas_idx (s : State) : (closeAtlas s).idx = s.idx := rfl
@[simp] theorem closeAtlas_bmp (s : State) : (closeAtlas s).bmp = s.bmp := rfl
@[simp] theorem closeAtlas_atlas (s : State) : (closeAtlas s).atlas = s.atlas := rfl
@[simp] theorem closeAtlas_met (s : State) : (closeAtlas s).met = s.met := rfl
@[simp] theorem closeAtlas_inputs (s : State) : (closeAtlas s).inputs = s.inputs := rfl
@[simp] theorem closeAtlas_responses (s : State) : (closeAtlas s).responses = s.responses := rfl
@[simp] theorem closeAtlas_draws (s : State) : (closeAtlas s).draws = s.draws := rfl


/-! `emitMetrics`: MET and STATUS. -/

@[simp] theorem emitMetrics_params (s : State) : (emitMetrics s).params = s.params := rfl
@[simp] theorem emitMetrics_cmdLatch (s : State) : (emitMetrics s).cmdLatch = s.cmdLatch := rfl
@[simp] theorem emitMetrics_status (s : State) : (emitMetrics s).status = metricsStatus s.status := rfl
@[simp] theorem emitMetrics_errCmd (s : State) : (emitMetrics s).errCmd = s.errCmd := rfl
@[simp] theorem emitMetrics_irqEn (s : State) : (emitMetrics s).irqEn = s.irqEn := rfl
@[simp] theorem emitMetrics_irqPend (s : State) : (emitMetrics s).irqPend = s.irqPend := rfl
@[simp] theorem emitMetrics_op (s : State) : (emitMetrics s).op = s.op := rfl
@[simp] theorem emitMetrics_layout (s : State) : (emitMetrics s).layout = s.layout := rfl
@[simp] theorem emitMetrics_byteCount (s : State) : (emitMetrics s).byteCount = s.byteCount := rfl
@[simp] theorem emitMetrics_nextCode (s : State) : (emitMetrics s).nextCode = s.nextCode := rfl
@[simp] theorem emitMetrics_atlasBase (s : State) : (emitMetrics s).atlasBase = s.atlasBase := rfl
@[simp] theorem emitMetrics_src (s : State) : (emitMetrics s).src = s.src := rfl
@[simp] theorem emitMetrics_idx (s : State) : (emitMetrics s).idx = s.idx := rfl
@[simp] theorem emitMetrics_bmp (s : State) : (emitMetrics s).bmp = s.bmp := rfl
@[simp] theorem emitMetrics_atlas (s : State) : (emitMetrics s).atlas = s.atlas := rfl
@[simp] theorem emitMetrics_met (s : State) : (emitMetrics s).met = s.met.write 0 (metricsTable s) := rfl
@[simp] theorem emitMetrics_inputs (s : State) : (emitMetrics s).inputs = s.inputs := rfl
@[simp] theorem emitMetrics_responses (s : State) : (emitMetrics s).responses = s.responses := rfl
@[simp] theorem emitMetrics_draws (s : State) : (emitMetrics s).draws = s.draws := rfl


/-! `append`: BMP and BYTE_COUNT. -/

@[simp] theorem append_params (v : List Byte) (s : State) : (append v s).params = s.params := rfl
@[simp] theorem append_cmdLatch (v : List Byte) (s : State) : (append v s).cmdLatch = s.cmdLatch := rfl
@[simp] theorem append_status (v : List Byte) (s : State) : (append v s).status = s.status := rfl
@[simp] theorem append_errCmd (v : List Byte) (s : State) : (append v s).errCmd = s.errCmd := rfl
@[simp] theorem append_irqEn (v : List Byte) (s : State) : (append v s).irqEn = s.irqEn := rfl
@[simp] theorem append_irqPend (v : List Byte) (s : State) : (append v s).irqPend = s.irqPend := rfl
@[simp] theorem append_op (v : List Byte) (s : State) : (append v s).op = s.op := rfl
@[simp] theorem append_layout (v : List Byte) (s : State) : (append v s).layout = s.layout := rfl
@[simp] theorem append_byteCount (v : List Byte) (s : State) : (append v s).byteCount = BitVec.ofNat 32 (s.byteCount.toNat + v.length) := rfl
@[simp] theorem append_nextCode (v : List Byte) (s : State) : (append v s).nextCode = s.nextCode := rfl
@[simp] theorem append_atlasBase (v : List Byte) (s : State) : (append v s).atlasBase = s.atlasBase := rfl
@[simp] theorem append_src (v : List Byte) (s : State) : (append v s).src = s.src := rfl
@[simp] theorem append_idx (v : List Byte) (s : State) : (append v s).idx = s.idx := rfl
@[simp] theorem append_bmp (v : List Byte) (s : State) : (append v s).bmp = s.bmp.write s.byteCount.toNat v := rfl
@[simp] theorem append_atlas (v : List Byte) (s : State) : (append v s).atlas = s.atlas := rfl
@[simp] theorem append_met (v : List Byte) (s : State) : (append v s).met = s.met := rfl
@[simp] theorem append_inputs (v : List Byte) (s : State) : (append v s).inputs = s.inputs := rfl
@[simp] theorem append_responses (v : List Byte) (s : State) : (append v s).responses = s.responses := rfl
@[simp] theorem append_draws (v : List Byte) (s : State) : (append v s).draws = s.draws := rfl


/-! `setOp`: the operand registers. -/

@[simp] theorem setOp_params (o : OperandRegs) (s : State) : (setOp s o).params = s.params := rfl
@[simp] theorem setOp_cmdLatch (o : OperandRegs) (s : State) : (setOp s o).cmdLatch = s.cmdLatch := rfl
@[simp] theorem setOp_status (o : OperandRegs) (s : State) : (setOp s o).status = s.status := rfl
@[simp] theorem setOp_errCmd (o : OperandRegs) (s : State) : (setOp s o).errCmd = s.errCmd := rfl
@[simp] theorem setOp_irqEn (o : OperandRegs) (s : State) : (setOp s o).irqEn = s.irqEn := rfl
@[simp] theorem setOp_irqPend (o : OperandRegs) (s : State) : (setOp s o).irqPend = s.irqPend := rfl
@[simp] theorem setOp_op (o : OperandRegs) (s : State) : (setOp s o).op = o := rfl
@[simp] theorem setOp_layout (o : OperandRegs) (s : State) : (setOp s o).layout = s.layout := rfl
@[simp] theorem setOp_byteCount (o : OperandRegs) (s : State) : (setOp s o).byteCount = s.byteCount := rfl
@[simp] theorem setOp_nextCode (o : OperandRegs) (s : State) : (setOp s o).nextCode = s.nextCode := rfl
@[simp] theorem setOp_atlasBase (o : OperandRegs) (s : State) : (setOp s o).atlasBase = s.atlasBase := rfl
@[simp] theorem setOp_src (o : OperandRegs) (s : State) : (setOp s o).src = s.src := rfl
@[simp] theorem setOp_idx (o : OperandRegs) (s : State) : (setOp s o).idx = s.idx := rfl
@[simp] theorem setOp_bmp (o : OperandRegs) (s : State) : (setOp s o).bmp = s.bmp := rfl
@[simp] theorem setOp_atlas (o : OperandRegs) (s : State) : (setOp s o).atlas = s.atlas := rfl
@[simp] theorem setOp_met (o : OperandRegs) (s : State) : (setOp s o).met = s.met := rfl
@[simp] theorem setOp_inputs (o : OperandRegs) (s : State) : (setOp s o).inputs = s.inputs := rfl
@[simp] theorem setOp_responses (o : OperandRegs) (s : State) : (setOp s o).responses = s.responses := rfl
@[simp] theorem setOp_draws (o : OperandRegs) (s : State) : (setOp s o).draws = s.draws := rfl


/-! `latchCommand`: CMD_LATCH and BUSY. -/

@[simp] theorem latchCommand_params (v : Word) (s : State) : (latchCommand v s).params = s.params := rfl
@[simp] theorem latchCommand_cmdLatch (v : Word) (s : State) : (latchCommand v s).cmdLatch = v := rfl
@[simp] theorem latchCommand_status (v : Word) (s : State) : (latchCommand v s).status = { s.status with busy := true } := rfl
@[simp] theorem latchCommand_errCmd (v : Word) (s : State) : (latchCommand v s).errCmd = s.errCmd := rfl
@[simp] theorem latchCommand_irqEn (v : Word) (s : State) : (latchCommand v s).irqEn = s.irqEn := rfl
@[simp] theorem latchCommand_irqPend (v : Word) (s : State) : (latchCommand v s).irqPend = s.irqPend := rfl
@[simp] theorem latchCommand_op (v : Word) (s : State) : (latchCommand v s).op = s.op := rfl
@[simp] theorem latchCommand_layout (v : Word) (s : State) : (latchCommand v s).layout = s.layout := rfl
@[simp] theorem latchCommand_byteCount (v : Word) (s : State) : (latchCommand v s).byteCount = s.byteCount := rfl
@[simp] theorem latchCommand_nextCode (v : Word) (s : State) : (latchCommand v s).nextCode = s.nextCode := rfl
@[simp] theorem latchCommand_atlasBase (v : Word) (s : State) : (latchCommand v s).atlasBase = s.atlasBase := rfl
@[simp] theorem latchCommand_src (v : Word) (s : State) : (latchCommand v s).src = s.src := rfl
@[simp] theorem latchCommand_idx (v : Word) (s : State) : (latchCommand v s).idx = s.idx := rfl
@[simp] theorem latchCommand_bmp (v : Word) (s : State) : (latchCommand v s).bmp = s.bmp := rfl
@[simp] theorem latchCommand_atlas (v : Word) (s : State) : (latchCommand v s).atlas = s.atlas := rfl
@[simp] theorem latchCommand_met (v : Word) (s : State) : (latchCommand v s).met = s.met := rfl
@[simp] theorem latchCommand_inputs (v : Word) (s : State) : (latchCommand v s).inputs = s.inputs := rfl
@[simp] theorem latchCommand_responses (v : Word) (s : State) : (latchCommand v s).responses = s.responses := rfl
@[simp] theorem latchCommand_draws (v : Word) (s : State) : (latchCommand v s).draws = s.draws := rfl


/-! `popInput`: the host's events. -/

@[simp] theorem popInput_params (s : State) : (popInput s).params = s.params := rfl
@[simp] theorem popInput_cmdLatch (s : State) : (popInput s).cmdLatch = s.cmdLatch := rfl
@[simp] theorem popInput_status (s : State) : (popInput s).status = s.status := rfl
@[simp] theorem popInput_errCmd (s : State) : (popInput s).errCmd = s.errCmd := rfl
@[simp] theorem popInput_irqEn (s : State) : (popInput s).irqEn = s.irqEn := rfl
@[simp] theorem popInput_irqPend (s : State) : (popInput s).irqPend = s.irqPend := rfl
@[simp] theorem popInput_op (s : State) : (popInput s).op = s.op := rfl
@[simp] theorem popInput_layout (s : State) : (popInput s).layout = s.layout := rfl
@[simp] theorem popInput_byteCount (s : State) : (popInput s).byteCount = s.byteCount := rfl
@[simp] theorem popInput_nextCode (s : State) : (popInput s).nextCode = s.nextCode := rfl
@[simp] theorem popInput_atlasBase (s : State) : (popInput s).atlasBase = s.atlasBase := rfl
@[simp] theorem popInput_src (s : State) : (popInput s).src = s.src := rfl
@[simp] theorem popInput_idx (s : State) : (popInput s).idx = s.idx := rfl
@[simp] theorem popInput_bmp (s : State) : (popInput s).bmp = s.bmp := rfl
@[simp] theorem popInput_atlas (s : State) : (popInput s).atlas = s.atlas := rfl
@[simp] theorem popInput_met (s : State) : (popInput s).met = s.met := rfl
@[simp] theorem popInput_inputs (s : State) : (popInput s).inputs = s.inputs.tail := rfl
@[simp] theorem popInput_responses (s : State) : (popInput s).responses = s.responses := rfl
@[simp] theorem popInput_draws (s : State) : (popInput s).draws = s.draws := rfl


/-! `respond`: the responses. -/

@[simp] theorem respond_params (r : Response) (s : State) : (respond r s).params = s.params := rfl
@[simp] theorem respond_cmdLatch (r : Response) (s : State) : (respond r s).cmdLatch = s.cmdLatch := rfl
@[simp] theorem respond_status (r : Response) (s : State) : (respond r s).status = s.status := rfl
@[simp] theorem respond_errCmd (r : Response) (s : State) : (respond r s).errCmd = s.errCmd := rfl
@[simp] theorem respond_irqEn (r : Response) (s : State) : (respond r s).irqEn = s.irqEn := rfl
@[simp] theorem respond_irqPend (r : Response) (s : State) : (respond r s).irqPend = s.irqPend := rfl
@[simp] theorem respond_op (r : Response) (s : State) : (respond r s).op = s.op := rfl
@[simp] theorem respond_layout (r : Response) (s : State) : (respond r s).layout = s.layout := rfl
@[simp] theorem respond_byteCount (r : Response) (s : State) : (respond r s).byteCount = s.byteCount := rfl
@[simp] theorem respond_nextCode (r : Response) (s : State) : (respond r s).nextCode = s.nextCode := rfl
@[simp] theorem respond_atlasBase (r : Response) (s : State) : (respond r s).atlasBase = s.atlasBase := rfl
@[simp] theorem respond_src (r : Response) (s : State) : (respond r s).src = s.src := rfl
@[simp] theorem respond_idx (r : Response) (s : State) : (respond r s).idx = s.idx := rfl
@[simp] theorem respond_bmp (r : Response) (s : State) : (respond r s).bmp = s.bmp := rfl
@[simp] theorem respond_atlas (r : Response) (s : State) : (respond r s).atlas = s.atlas := rfl
@[simp] theorem respond_met (r : Response) (s : State) : (respond r s).met = s.met := rfl
@[simp] theorem respond_inputs (r : Response) (s : State) : (respond r s).inputs = s.inputs := rfl
@[simp] theorem respond_responses (r : Response) (s : State) : (respond r s).responses = s.responses ++ [r] := rfl
@[simp] theorem respond_draws (r : Response) (s : State) : (respond r s).draws = s.draws := rfl


/-! `resetBlock`: every register and buffer. -/

@[simp] theorem resetBlock_params (s : State) : (resetBlock s).params = s.params := rfl
@[simp] theorem resetBlock_cmdLatch (s : State) : (resetBlock s).cmdLatch = (State.resetOf s.params).cmdLatch := rfl
@[simp] theorem resetBlock_status (s : State) : (resetBlock s).status = (State.resetOf s.params).status := rfl
@[simp] theorem resetBlock_errCmd (s : State) : (resetBlock s).errCmd = (State.resetOf s.params).errCmd := rfl
@[simp] theorem resetBlock_irqEn (s : State) : (resetBlock s).irqEn = (State.resetOf s.params).irqEn := rfl
@[simp] theorem resetBlock_irqPend (s : State) : (resetBlock s).irqPend = (State.resetOf s.params).irqPend := rfl
@[simp] theorem resetBlock_op (s : State) : (resetBlock s).op = (State.resetOf s.params).op := rfl
@[simp] theorem resetBlock_layout (s : State) : (resetBlock s).layout = (State.resetOf s.params).layout := rfl
@[simp] theorem resetBlock_byteCount (s : State) : (resetBlock s).byteCount = (State.resetOf s.params).byteCount := rfl
@[simp] theorem resetBlock_nextCode (s : State) : (resetBlock s).nextCode = (State.resetOf s.params).nextCode := rfl
@[simp] theorem resetBlock_atlasBase (s : State) : (resetBlock s).atlasBase = (State.resetOf s.params).atlasBase := rfl
@[simp] theorem resetBlock_src (s : State) : (resetBlock s).src = (State.resetOf s.params).src := rfl
@[simp] theorem resetBlock_idx (s : State) : (resetBlock s).idx = (State.resetOf s.params).idx := rfl
@[simp] theorem resetBlock_bmp (s : State) : (resetBlock s).bmp = (State.resetOf s.params).bmp := rfl
@[simp] theorem resetBlock_atlas (s : State) : (resetBlock s).atlas = (State.resetOf s.params).atlas := rfl
@[simp] theorem resetBlock_met (s : State) : (resetBlock s).met = (State.resetOf s.params).met := rfl
@[simp] theorem resetBlock_inputs (s : State) : (resetBlock s).inputs = s.inputs := rfl
@[simp] theorem resetBlock_responses (s : State) : (resetBlock s).responses = s.responses := rfl
@[simp] theorem resetBlock_draws (s : State) : (resetBlock s).draws = s.draws := rfl


/-! `memWrite`: one buffer. -/

@[simp] theorem setBuf_params (s : State) (b : Buffer) (m : Memory) : (s.setBuf b m).params = s.params := by
  cases b <;> rfl
@[simp] theorem setBuf_cmdLatch (s : State) (b : Buffer) (m : Memory) : (s.setBuf b m).cmdLatch = s.cmdLatch := by
  cases b <;> rfl
@[simp] theorem setBuf_status (s : State) (b : Buffer) (m : Memory) : (s.setBuf b m).status = s.status := by
  cases b <;> rfl
@[simp] theorem setBuf_errCmd (s : State) (b : Buffer) (m : Memory) : (s.setBuf b m).errCmd = s.errCmd := by
  cases b <;> rfl
@[simp] theorem setBuf_irqEn (s : State) (b : Buffer) (m : Memory) : (s.setBuf b m).irqEn = s.irqEn := by
  cases b <;> rfl
@[simp] theorem setBuf_irqPend (s : State) (b : Buffer) (m : Memory) : (s.setBuf b m).irqPend = s.irqPend := by
  cases b <;> rfl
@[simp] theorem setBuf_op (s : State) (b : Buffer) (m : Memory) : (s.setBuf b m).op = s.op := by
  cases b <;> rfl
@[simp] theorem setBuf_layout (s : State) (b : Buffer) (m : Memory) : (s.setBuf b m).layout = s.layout := by
  cases b <;> rfl
@[simp] theorem setBuf_byteCount (s : State) (b : Buffer) (m : Memory) : (s.setBuf b m).byteCount = s.byteCount := by
  cases b <;> rfl
@[simp] theorem setBuf_nextCode (s : State) (b : Buffer) (m : Memory) : (s.setBuf b m).nextCode = s.nextCode := by
  cases b <;> rfl
@[simp] theorem setBuf_atlasBase (s : State) (b : Buffer) (m : Memory) : (s.setBuf b m).atlasBase = s.atlasBase := by
  cases b <;> rfl
@[simp] theorem setBuf_inputs (s : State) (b : Buffer) (m : Memory) : (s.setBuf b m).inputs = s.inputs := by
  cases b <;> rfl
@[simp] theorem setBuf_responses (s : State) (b : Buffer) (m : Memory) : (s.setBuf b m).responses = s.responses := by
  cases b <;> rfl
@[simp] theorem setBuf_draws (s : State) (b : Buffer) (m : Memory) : (s.setBuf b m).draws = s.draws := by
  cases b <;> rfl
@[simp] theorem memWrite_params (b : Buffer) (off : Nat) (v : List Byte) (s : State) :
    (memWrite b off v s).params = s.params := by
  cases b <;> rfl
@[simp] theorem memWrite_cmdLatch (b : Buffer) (off : Nat) (v : List Byte) (s : State) :
    (memWrite b off v s).cmdLatch = s.cmdLatch := by
  cases b <;> rfl
@[simp] theorem memWrite_status (b : Buffer) (off : Nat) (v : List Byte) (s : State) :
    (memWrite b off v s).status = s.status := by
  cases b <;> rfl
@[simp] theorem memWrite_errCmd (b : Buffer) (off : Nat) (v : List Byte) (s : State) :
    (memWrite b off v s).errCmd = s.errCmd := by
  cases b <;> rfl
@[simp] theorem memWrite_irqEn (b : Buffer) (off : Nat) (v : List Byte) (s : State) :
    (memWrite b off v s).irqEn = s.irqEn := by
  cases b <;> rfl
@[simp] theorem memWrite_irqPend (b : Buffer) (off : Nat) (v : List Byte) (s : State) :
    (memWrite b off v s).irqPend = s.irqPend := by
  cases b <;> rfl
@[simp] theorem memWrite_op (b : Buffer) (off : Nat) (v : List Byte) (s : State) :
    (memWrite b off v s).op = s.op := by
  cases b <;> rfl
@[simp] theorem memWrite_layout (b : Buffer) (off : Nat) (v : List Byte) (s : State) :
    (memWrite b off v s).layout = s.layout := by
  cases b <;> rfl
@[simp] theorem memWrite_byteCount (b : Buffer) (off : Nat) (v : List Byte) (s : State) :
    (memWrite b off v s).byteCount = s.byteCount := by
  cases b <;> rfl
@[simp] theorem memWrite_nextCode (b : Buffer) (off : Nat) (v : List Byte) (s : State) :
    (memWrite b off v s).nextCode = s.nextCode := by
  cases b <;> rfl
@[simp] theorem memWrite_atlasBase (b : Buffer) (off : Nat) (v : List Byte) (s : State) :
    (memWrite b off v s).atlasBase = s.atlasBase := by
  cases b <;> rfl
@[simp] theorem memWrite_inputs (b : Buffer) (off : Nat) (v : List Byte) (s : State) :
    (memWrite b off v s).inputs = s.inputs := by
  cases b <;> rfl
@[simp] theorem memWrite_responses (b : Buffer) (off : Nat) (v : List Byte) (s : State) :
    (memWrite b off v s).responses = s.responses := by
  cases b <;> rfl
@[simp] theorem memWrite_draws (b : Buffer) (off : Nat) (v : List Byte) (s : State) :
    (memWrite b off v s).draws = s.draws := by
  cases b <;> rfl
@[simp] theorem memWrite_src_src (off : Nat) (v : List Byte) (s : State) :
    (memWrite .src off v s).src = s.src.write off v := rfl
@[simp] theorem memWrite_src_idx (off : Nat) (v : List Byte) (s : State) :
    (memWrite .src off v s).idx = s.idx := rfl
@[simp] theorem memWrite_src_bmp (off : Nat) (v : List Byte) (s : State) :
    (memWrite .src off v s).bmp = s.bmp := rfl
@[simp] theorem memWrite_src_atlas (off : Nat) (v : List Byte) (s : State) :
    (memWrite .src off v s).atlas = s.atlas := rfl
@[simp] theorem memWrite_src_met (off : Nat) (v : List Byte) (s : State) :
    (memWrite .src off v s).met = s.met := rfl
@[simp] theorem memWrite_idx_src (off : Nat) (v : List Byte) (s : State) :
    (memWrite .idx off v s).src = s.src := rfl
@[simp] theorem memWrite_idx_idx (off : Nat) (v : List Byte) (s : State) :
    (memWrite .idx off v s).idx = s.idx.write off v := rfl
@[simp] theorem memWrite_idx_bmp (off : Nat) (v : List Byte) (s : State) :
    (memWrite .idx off v s).bmp = s.bmp := rfl
@[simp] theorem memWrite_idx_atlas (off : Nat) (v : List Byte) (s : State) :
    (memWrite .idx off v s).atlas = s.atlas := rfl
@[simp] theorem memWrite_idx_met (off : Nat) (v : List Byte) (s : State) :
    (memWrite .idx off v s).met = s.met := rfl
@[simp] theorem memWrite_bmp_src (off : Nat) (v : List Byte) (s : State) :
    (memWrite .bmp off v s).src = s.src := rfl
@[simp] theorem memWrite_bmp_idx (off : Nat) (v : List Byte) (s : State) :
    (memWrite .bmp off v s).idx = s.idx := rfl
@[simp] theorem memWrite_bmp_bmp (off : Nat) (v : List Byte) (s : State) :
    (memWrite .bmp off v s).bmp = s.bmp.write off v := rfl
@[simp] theorem memWrite_bmp_atlas (off : Nat) (v : List Byte) (s : State) :
    (memWrite .bmp off v s).atlas = s.atlas := rfl
@[simp] theorem memWrite_bmp_met (off : Nat) (v : List Byte) (s : State) :
    (memWrite .bmp off v s).met = s.met := rfl
@[simp] theorem memWrite_atlas_src (off : Nat) (v : List Byte) (s : State) :
    (memWrite .atlas off v s).src = s.src := rfl
@[simp] theorem memWrite_atlas_idx (off : Nat) (v : List Byte) (s : State) :
    (memWrite .atlas off v s).idx = s.idx := rfl
@[simp] theorem memWrite_atlas_bmp (off : Nat) (v : List Byte) (s : State) :
    (memWrite .atlas off v s).bmp = s.bmp := rfl
@[simp] theorem memWrite_atlas_atlas (off : Nat) (v : List Byte) (s : State) :
    (memWrite .atlas off v s).atlas = s.atlas.write off v := rfl
@[simp] theorem memWrite_atlas_met (off : Nat) (v : List Byte) (s : State) :
    (memWrite .atlas off v s).met = s.met := rfl
@[simp] theorem memWrite_met_src (off : Nat) (v : List Byte) (s : State) :
    (memWrite .met off v s).src = s.src := rfl
@[simp] theorem memWrite_met_idx (off : Nat) (v : List Byte) (s : State) :
    (memWrite .met off v s).idx = s.idx := rfl
@[simp] theorem memWrite_met_bmp (off : Nat) (v : List Byte) (s : State) :
    (memWrite .met off v s).bmp = s.bmp := rfl
@[simp] theorem memWrite_met_atlas (off : Nat) (v : List Byte) (s : State) :
    (memWrite .met off v s).atlas = s.atlas := rfl
@[simp] theorem memWrite_met_met (off : Nat) (v : List Byte) (s : State) :
    (memWrite .met off v s).met = s.met.write off v := rfl

/-- Reading back the buffer written. -/
@[simp] theorem buf_setBuf_same (s : State) (b : Buffer) (m : Memory) : (s.setBuf b m).buf b = m := by
  cases b <;> rfl

/-- Every other buffer is as before. -/
theorem buf_setBuf_of_ne (s : State) {b c : Buffer} (m : Memory) (h : c ≠ b) :
    (s.setBuf b m).buf c = s.buf c := by
  cases b <;> cases c <;> first | rfl | exact absurd rfl h

/-! STATUS under the flag updates. -/

@[simp] theorem faultStatus_busy (c : FaultCode) (st : Status) : (faultStatus c st).busy = false := rfl
@[simp] theorem faultStatus_err (c : FaultCode) (st : Status) : (faultStatus c st).err = true := rfl
@[simp] theorem faultStatus_layoutValid (c : FaultCode) (st : Status) : (faultStatus c st).layoutValid = st.layoutValid := rfl
@[simp] theorem faultStatus_fmtValid (c : FaultCode) (st : Status) : (faultStatus c st).fmtValid = st.fmtValid := rfl
@[simp] theorem faultStatus_atlasActive (c : FaultCode) (st : Status) : (faultStatus c st).atlasActive = false := rfl
@[simp] theorem faultStatus_atlasDone (c : FaultCode) (st : Status) : (faultStatus c st).atlasDone = false := rfl
@[simp] theorem faultStatus_metValid (c : FaultCode) (st : Status) : (faultStatus c st).metValid = false := rfl
@[simp] theorem faultStatus_errCode (c : FaultCode) (st : Status) : (faultStatus c st).errCode = errCodeOf c := rfl
@[simp] theorem clearedStatus_busy (st : Status) : (clearedStatus st).busy = st.busy := rfl
@[simp] theorem clearedStatus_err (st : Status) : (clearedStatus st).err = false := rfl
@[simp] theorem clearedStatus_layoutValid (st : Status) : (clearedStatus st).layoutValid = st.layoutValid := rfl
@[simp] theorem clearedStatus_fmtValid (st : Status) : (clearedStatus st).fmtValid = st.fmtValid := rfl
@[simp] theorem clearedStatus_atlasActive (st : Status) : (clearedStatus st).atlasActive = false := rfl
@[simp] theorem clearedStatus_atlasDone (st : Status) : (clearedStatus st).atlasDone = false := rfl
@[simp] theorem clearedStatus_metValid (st : Status) : (clearedStatus st).metValid = false := rfl
@[simp] theorem clearedStatus_errCode (st : Status) : (clearedStatus st).errCode = 0 := rfl
@[simp] theorem layoutStatus_busy (b : Bool) (st : Status) : (layoutStatus b st).busy = st.busy := rfl
@[simp] theorem layoutStatus_err (b : Bool) (st : Status) : (layoutStatus b st).err = st.err := rfl
@[simp] theorem layoutStatus_layoutValid (b : Bool) (st : Status) : (layoutStatus b st).layoutValid = true := rfl
@[simp] theorem layoutStatus_fmtValid (b : Bool) (st : Status) : (layoutStatus b st).fmtValid = b := rfl
@[simp] theorem layoutStatus_atlasActive (b : Bool) (st : Status) : (layoutStatus b st).atlasActive = st.atlasActive := rfl
@[simp] theorem layoutStatus_atlasDone (b : Bool) (st : Status) : (layoutStatus b st).atlasDone = false := rfl
@[simp] theorem layoutStatus_metValid (b : Bool) (st : Status) : (layoutStatus b st).metValid = false := rfl
@[simp] theorem layoutStatus_errCode (b : Bool) (st : Status) : (layoutStatus b st).errCode = st.errCode := rfl
@[simp] theorem atlasOpenStatus_busy (st : Status) : (atlasOpenStatus st).busy = st.busy := rfl
@[simp] theorem atlasOpenStatus_err (st : Status) : (atlasOpenStatus st).err = st.err := rfl
@[simp] theorem atlasOpenStatus_layoutValid (st : Status) : (atlasOpenStatus st).layoutValid = st.layoutValid := rfl
@[simp] theorem atlasOpenStatus_fmtValid (st : Status) : (atlasOpenStatus st).fmtValid = st.fmtValid := rfl
@[simp] theorem atlasOpenStatus_atlasActive (st : Status) : (atlasOpenStatus st).atlasActive = true := rfl
@[simp] theorem atlasOpenStatus_atlasDone (st : Status) : (atlasOpenStatus st).atlasDone = false := rfl
@[simp] theorem atlasOpenStatus_metValid (st : Status) : (atlasOpenStatus st).metValid = st.metValid := rfl
@[simp] theorem atlasOpenStatus_errCode (st : Status) : (atlasOpenStatus st).errCode = st.errCode := rfl
@[simp] theorem atlasClosedStatus_busy (st : Status) : (atlasClosedStatus st).busy = st.busy := rfl
@[simp] theorem atlasClosedStatus_err (st : Status) : (atlasClosedStatus st).err = st.err := rfl
@[simp] theorem atlasClosedStatus_layoutValid (st : Status) : (atlasClosedStatus st).layoutValid = st.layoutValid := rfl
@[simp] theorem atlasClosedStatus_fmtValid (st : Status) : (atlasClosedStatus st).fmtValid = st.fmtValid := rfl
@[simp] theorem atlasClosedStatus_atlasActive (st : Status) : (atlasClosedStatus st).atlasActive = false := rfl
@[simp] theorem atlasClosedStatus_atlasDone (st : Status) : (atlasClosedStatus st).atlasDone = true := rfl
@[simp] theorem atlasClosedStatus_metValid (st : Status) : (atlasClosedStatus st).metValid = st.metValid := rfl
@[simp] theorem atlasClosedStatus_errCode (st : Status) : (atlasClosedStatus st).errCode = st.errCode := rfl
@[simp] theorem metricsStatus_busy (st : Status) : (metricsStatus st).busy = st.busy := rfl
@[simp] theorem metricsStatus_err (st : Status) : (metricsStatus st).err = st.err := rfl
@[simp] theorem metricsStatus_layoutValid (st : Status) : (metricsStatus st).layoutValid = st.layoutValid := rfl
@[simp] theorem metricsStatus_fmtValid (st : Status) : (metricsStatus st).fmtValid = st.fmtValid := rfl
@[simp] theorem metricsStatus_atlasActive (st : Status) : (metricsStatus st).atlasActive = st.atlasActive := rfl
@[simp] theorem metricsStatus_atlasDone (st : Status) : (metricsStatus st).atlasDone = st.atlasDone := rfl
@[simp] theorem metricsStatus_metValid (st : Status) : (metricsStatus st).metValid = true := rfl
@[simp] theorem metricsStatus_errCode (st : Status) : (metricsStatus st).errCode = st.errCode := rfl

end Sys2Proof.Machine
end

