-- ==== Sys2Proof/Laws/Commands.lean ====
section
/-! SUPPORT. What each command can do: if it answers a next state, that state is the fault record of one
of its faults, or the completion of its effect under the conditions it checked. -/

namespace Sys2Proof.Machine

@[simp] theorem raiseFault_eq (c : FaultCode) (s : State) : raiseFault c s = .next (faultEntry c s) := rfl

@[simp] theorem succeed_eq (s : State) : succeed s = .next (complete s) := rfl

theorem inBounds_eq (P : Params) (b : Buffer) (off n : Nat) :
    inBounds P b off n = decide (off + n ≤ capacity P b) := rfl

/-- A bounds check that passed. -/
theorem bound_of_inBounds {P : Params} {b : Buffer} {off n : Nat}
    (h : ¬(!inBounds P b off n) = true) : off + n ≤ capacity P b := by
  rw [inBounds_eq, Bool.not_eq_true', decide_eq_false_iff_not, Decidable.not_not] at h
  exact h

/-- Two bounds checks that passed. -/
theorem bounds_of_inBounds {P : Params} {b c : Buffer} {off n off' n' : Nat}
    (h : ¬(!inBounds P b off n || !inBounds P c off' n') = true) :
    off + n ≤ capacity P b ∧ off' + n' ≤ capacity P c := by
  rw [Bool.or_eq_true, not_or] at h
  exact ⟨bound_of_inBounds h.1, bound_of_inBounds h.2⟩

/-- The answer is a next state that this command's fault or completion explains. -/
theorem execNop_cases {s t : State} (h : execNop s = .next t) : t = complete s := by
  simpa [execNop] using h.symm

theorem execClear_cases {s t : State} (h : execClear s = .next t) : t = complete (clearRun s) := by
  simpa [execClear] using h.symm

theorem execLayout_cases {d : Nat} {s t : State} (h : execLayout d s = .next t) :
    (∃ c ∈ [FaultCode.sequenceError, .unsupportedBitDepth], t = faultEntry c s) ∨
    ∃ depth : Depth, d = depth.bits ∧ s.status.atlasActive = false ∧
      t = complete (setLayout depth s) := by
  unfold execLayout at h
  split at h
  · cases h; exact .inl ⟨_, by simp, rfl⟩
  · rename_i ha
    split at h
    · cases h; exact .inl ⟨_, by simp, rfl⟩
    · rename_i depth hd
      cases h
      exact .inr ⟨depth, Depth.ofNat?_eq_some.1 hd, by simpa using ha, rfl⟩

theorem execQuant_cases {d : Nat} {s t : State} (h : execQuant d s = .next t) :
    (∃ c ∈ [FaultCode.unsupportedBitDepth, .bufferOverflow], t = faultEntry c s) ∨
    ∃ depth : Depth, d = depth.bits ∧
      s.op.srcOff.toNat + s.op.len.toNat ≤ s.params.srcCap ∧
      s.op.idxOff.toNat + s.op.len.toNat ≤ s.params.idxCap ∧
      t = complete (memWrite .idx s.op.idxOff.toNat
        ((memRead .src s.op.srcOff.toNat s.op.len.toNat s).map (quantize depth))
        (drawn s.op.len.toNat s)) := by
  unfold execQuant at h
  split at h
  · cases h; exact .inl ⟨_, by simp, rfl⟩
  · rename_i depth hd
    dsimp only at h
    split at h
    · cases h; exact .inl ⟨_, by simp, rfl⟩
    · rename_i hb
      cases h
      have hb := bounds_of_inBounds hb
      exact .inr ⟨depth, Depth.ofNat?_eq_some.1 hd, hb.1, hb.2, rfl⟩

theorem execPack_cases {d : Nat} {s t : State} (h : execPack d s = .next t) :
    (∃ c ∈ [FaultCode.sequenceError, .unsupportedBitDepth, .bufferOverflow], t = faultEntry c s) ∨
    t = faultEntry .indexRange (drawn s.op.len.toNat s) ∨
    ∃ depth : PackDepth, d = depth.depth.bits ∧ s.status.atlasActive = false ∧
      s.op.idxOff.toNat + s.op.len.toNat ≤ s.params.idxCap ∧
      s.byteCount.toNat + packedLength depth s.op.len.toNat ≤ s.params.bmpCap ∧
      t = complete (append (pack depth (memRead .idx s.op.idxOff.toNat s.op.len.toNat s))
        (drawn s.op.len.toNat s)) := by
  unfold execPack at h
  split at h
  · cases h; exact .inl ⟨_, by simp, rfl⟩
  · rename_i ha
    split at h
    · cases h; exact .inl ⟨_, by simp, rfl⟩
    · rename_i depth hd
      dsimp only at h
      split at h
      · cases h; exact .inl ⟨_, by simp, rfl⟩
      · rename_i hb
        have hb := bounds_of_inBounds hb
        split at h
        · cases h; exact .inr (.inl rfl)
        · cases h
          exact .inr (.inr ⟨depth, PackDepth.ofNat?_eq_some.1 hd, by simpa using ha, hb.1, hb.2, rfl⟩)

theorem execBitmap_cases {s t : State} (h : execBitmap s = .next t) :
    (∃ c ∈ [FaultCode.sequenceError, .noLayout, .unsupportedBitDepth, .bufferOverflow],
      t = faultEntry c s) ∨
    ∃ depth : PackDepth, s.layout.layoutBd.toNat = depth.depth.bits ∧
      s.status.atlasActive = false ∧ s.status.layoutValid = true ∧
      s.op.srcOff.toNat + s.sampleCount ≤ s.params.srcCap ∧
      s.byteCount.toNat + s.cellBytes ≤ s.params.bmpCap ∧
      t = complete (append (packImage depth s.width s.height s.padw
        (memRead .src s.op.srcOff.toNat s.sampleCount s)) (drawn s.sampleCount s)) := by
  unfold execBitmap at h
  split at h
  · cases h; exact .inl ⟨_, by simp, rfl⟩
  · rename_i ha
    split at h
    · cases h; exact .inl ⟨_, by simp, rfl⟩
    · rename_i hl
      split at h
      · cases h; exact .inl ⟨_, by simp, rfl⟩
      · rename_i depth hd
        dsimp only at h
        split at h
        · cases h; exact .inl ⟨_, by simp, rfl⟩
        · rename_i hb
          cases h
          have hb := bounds_of_inBounds hb
          exact .inr ⟨depth, PackDepth.ofNat?_eq_some.1 hd, by simpa using ha, by simpa using hl,
            hb.1, hb.2, rfl⟩

theorem execAtlasBegin_cases {s t : State} (h : execAtlasBegin s = .next t) :
    (∃ c ∈ [FaultCode.sequenceError, .noLayout, .unsupportedBitDepth, .badRange, .emptyRenderSet,
      .renderSetOutsideRange, .badGeometry, .bufferOverflow], t = faultEntry c s) ∨
    (s.status.atlasActive = false ∧ s.status.layoutValid = true ∧
      (∃ depth : PackDepth, s.layout.layoutBd.toNat = depth.depth.bits) ∧
      s.op.rangeLegal = true ∧ s.op.rsetEmpty = false ∧ s.op.rsetInRange = true ∧
      0 < s.width ∧ 0 < s.height ∧
      s.byteCount.toNat + s.stride * s.height * s.op.nCodes ≤ s.params.bmpCap ∧
      s.padw * s.height * s.op.nCodes ≤ s.params.atlasCap ∧
      t = complete (openAtlas s)) := by
  unfold execAtlasBegin at h
  iterate 8
    split at h
    · cases h; exact .inl ⟨_, by simp, rfl⟩
  rename_i h1 h2 h3 h4 h5 h6 h7 h8
  cases h
  have h8 := bounds_of_inBounds h8
  rw [Nat.zero_add] at h8
  have h3' : ∃ depth, PackDepth.ofNat? s.layout.layoutBd.toNat = some depth := by
    cases hd : PackDepth.ofNat? s.layout.layoutBd.toNat with
    | none => simp [hd] at h3
    | some depth => exact ⟨depth, rfl⟩
  obtain ⟨depth, hd⟩ := h3'
  exact .inr ⟨by simpa using h1, by simpa using h2, ⟨depth, PackDepth.ofNat?_eq_some.1 hd⟩,
    by simpa using h4, by simpa using h5, by simpa using h6, by omega, by omega, h8.1, h8.2, rfl⟩

theorem execCell_cases {s t : State} (h : execCell s = .next t) :
    (∃ c ∈ [FaultCode.sequenceError, .bufferOverflow], t = faultEntry c s) ∨
    (s.status.atlasActive = true ∧ s.nextCode.toNat ≤ s.op.rangeEnd.toNat ∧
      ((s.op.rset s.nextCode.toNat = true ∧ ∃ depth : PackDepth,
          s.layout.layoutBd.toNat = depth.depth.bits ∧
          s.op.srcOff.toNat + s.sampleCount ≤ s.params.srcCap ∧
          t = complete (emitRendered depth (memRead .src s.op.srcOff.toNat s.sampleCount s)
            (drawn s.sampleCount s))) ∨
       (s.op.rset s.nextCode.toNat = false ∧ t = complete (emitMissing s)))) := by
  unfold execCell at h
  split at h
  · cases h; exact .inl ⟨_, by simp, rfl⟩
  · rename_i ha
    split at h
    · cases h; exact .inl ⟨_, by simp, rfl⟩
    · rename_i hc
      split at h
      · rename_i hr
        dsimp only at h
        split at h
        · cases h; exact .inl ⟨_, by simp, rfl⟩
        · rename_i hb
          split at h
          · cases h
          · rename_i depth hd
            cases h
            exact .inr ⟨by simpa using ha, by omega, .inl ⟨hr, depth,
              PackDepth.ofNat?_eq_some.1 hd, bound_of_inBounds hb, rfl⟩⟩
      · rename_i hr
        cases h
        exact .inr ⟨by simpa using ha, by omega, .inr ⟨hr, rfl⟩⟩

theorem execAtlasEnd_cases {s t : State} (h : execAtlasEnd s = .next t) :
    (∃ c ∈ [FaultCode.sequenceError], t = faultEntry c s) ∨
    (s.status.atlasActive = true ∧ s.nextCode.toNat = s.op.rangeEnd.toNat + 1 ∧
      t = complete (closeAtlas s)) := by
  unfold execAtlasEnd at h
  split at h
  · cases h; exact .inl ⟨_, by simp, rfl⟩
  · rename_i ha
    split at h
    · cases h; exact .inl ⟨_, by simp, rfl⟩
    · rename_i hc
      cases h
      exact .inr ⟨by simpa using ha, by omega, rfl⟩

theorem execMetrics_cases {s t : State} (h : execMetrics s = .next t) :
    (∃ c ∈ [FaultCode.noLayout, .noMatchingLayout, .badRange, .emptyRenderSet,
      .renderSetOutsideRange], t = faultEntry c s) ∨
    (s.status.layoutValid = true ∧ s.status.fmtValid = true ∧ s.op.rangeLegal = true ∧
      s.op.rsetEmpty = false ∧ s.op.rsetInRange = true ∧ t = complete (emitMetrics s)) := by
  unfold execMetrics at h
  iterate 5
    split at h
    · cases h; exact .inl ⟨_, by simp, rfl⟩
  rename_i h1 h2 h3 h4 h5
  cases h
  exact .inr ⟨by simpa using h1, by simpa using h2, by simpa using h3, by simpa using h4,
    by simpa using h5, rfl⟩

end Sys2Proof.Machine
end

