-- ==== Sys2Proof/Laws/Encoding.lean ====
section
/-! SUPPORT. The three fields of a word (30_encoding.md R71) and the word of a command (R74) as numbers. -/

namespace Sys2Proof

theorem opField_eq (w : Word) : opField w = w.toNat % 256 := by
  simp [opField, BitVec.extractLsb'_toNat]

theorem dField_eq (w : Word) : dField w = w.toNat / 256 % 16 := by
  simp [dField, BitVec.extractLsb'_toNat, Nat.shiftRight_eq_div_pow]

theorem rsvField_eq (w : Word) : rsvField w = w.toNat / 4096 := by
  have := w.isLt
  simp [rsvField, BitVec.extractLsb'_toNat, Nat.shiftRight_eq_div_pow]
  omega

theorem opcodeOf_lt (i : Instr) : (opcodeOf i).toNat < 256 := by
  cases i <;> simp [opcodeOf]

/-- A command with an encoding has a depth that fits the D field. -/
theorem depthOf_lt {i : Instr} (h : i.wf = true) : depthOf i < 16 := by
  cases i <;> simp_all [Instr.wf, depthOf]

/-- The word of a command: its depth above its opcode. -/
theorem encode_toNat {i : Instr} (h : i.wf = true) :
    (encode i).toNat = 256 * depthOf i + (opcodeOf i).toNat := by
  have hd := depthOf_lt h
  have ho := opcodeOf_lt i
  have h1 : ((BitVec.ofNat 4 (depthOf i)).setWidth 32 <<< 8 : Word).toNat = depthOf i <<< 8 := by
    simp [BitVec.toNat_shiftLeft, Nat.shiftLeft_eq]; omega
  rw [encode, BitVec.toNat_or, h1, ← Nat.shiftLeft_add_eq_or_of_lt (by simpa using ho),
    Nat.shiftLeft_eq]
  omega

end Sys2Proof
end

