-- ==== Sys2Proof/Laws/Memory.lean ====
section
/-! SUPPORT. The laws of one buffer: a write reads back and leaves every other byte, the canonical form
and the bounds are kept, and equal contents in canonical form are equal lists. -/

namespace Sys2Proof.Machine

@[simp] theorem get?_nil (a : Nat) : Memory.get? [] a = none := rfl

theorem get?_cons (k : Nat) (b : Byte) (rest : Memory) (a : Nat) :
    Memory.get? ((k, b) :: rest) a = if k = a then some b else Memory.get? rest a := rfl

theorem get?_append (m n : Memory) (a : Nat) :
    Memory.get? (m ++ n) a = (Memory.get? m a).or (Memory.get? n a) := by
  induction m with
  | nil => simp
  | cons c m ih =>
    obtain ⟨k, b⟩ := c
    simp only [List.cons_append, get?_cons]
    split <;> simp [ih]

/-- A filter by offset keeps the bytes at the offsets it keeps. -/
theorem get?_filter (p : Nat → Bool) (m : Memory) (a : Nat) :
    Memory.get? (m.filter fun c => p c.1) a = if p a then Memory.get? m a else none := by
  induction m with
  | nil => simp
  | cons c m ih =>
    obtain ⟨k, b⟩ := c
    by_cases hk : p k = true
    · rw [List.filter_cons_of_pos (by simpa using hk), get?_cons, get?_cons, ih]
      by_cases hka : k = a
      · subst hka; simp [hk]
      · simp [hka]
    · rw [List.filter_cons_of_neg (by simpa using hk), get?_cons, ih]
      by_cases hka : k = a
      · subst hka; simp [hk]
      · simp [hka]

theorem get?_cellsAt (off : Nat) (v : List Byte) (a : Nat) :
    Memory.get? (cellsAt off v) a = if off ≤ a then v[a - off]? else none := by
  induction v generalizing off with
  | nil => simp [cellsAt]
  | cons b rest ih =>
    rw [cellsAt, get?_cons, ih]
    rcases Nat.lt_trichotomy off a with h | h | h
    · obtain ⟨j, hj⟩ : ∃ j, a - off = j + 1 := ⟨a - off - 1, by omega⟩
      simp [show off ≠ a by omega, show off + 1 ≤ a by omega, show off ≤ a by omega, hj,
        show a - (off + 1) = j by omega]
    · subst h; simp
    · simp [show off ≠ a by omega, show ¬off + 1 ≤ a by omega, show ¬off ≤ a by omega]

/-- What a byte reads after a write: the byte written there, or what it read before. -/
theorem get?_write (m : Memory) (off : Nat) (v : List Byte) (a : Nat) :
    (m.write off v).get? a = if off ≤ a ∧ a < off + v.length then v[a - off]? else m.get? a := by
  rw [Memory.write, get?_append, get?_append, get?_cellsAt,
    get?_filter (fun k => decide (k < off)), get?_filter (fun k => decide (off + v.length ≤ k))]
  by_cases h1 : off ≤ a
  · by_cases h2 : a < off + v.length
    · have : a - off < v.length := by omega
      simp [h1, h2, show ¬a < off by omega, List.getElem?_eq_getElem this]
    · have : v[a - off]? = none := List.getElem?_eq_none (by omega)
      simp [h1, h2, show ¬a < off by omega, show off + v.length ≤ a by omega, this]
  · simp [h1, show a < off by omega, show ¬off + v.length ≤ a by omega]

/-- A byte inside a write reads back. -/
theorem get?_write_inside (m : Memory) (off : Nat) (v : List Byte) (i : Nat) (h : i < v.length) :
    (m.write off v).get? (off + i) = some v[i] := by
  rw [get?_write, if_pos ⟨by omega, by omega⟩, show off + i - off = i by omega,
    List.getElem?_eq_getElem h]

/-- A byte outside a write is as before. -/
theorem get?_write_outside (m : Memory) (off : Nat) (v : List Byte) (a : Nat)
    (h : a < off ∨ off + v.length ≤ a) : (m.write off v).get? a = m.get? a := by
  rw [get?_write, if_neg (by omega)]

theorem mem_cellsAt {off : Nat} {v : List Byte} {c : Host.Cell} (h : c ∈ cellsAt off v) :
    off ≤ c.1 ∧ c.1 < off + v.length := by
  induction v generalizing off with
  | nil => simp [cellsAt] at h
  | cons b rest ih =>
    rw [cellsAt, List.mem_cons] at h
    obtain rfl | h := h
    · simp
    · have := ih h
      simp only [List.length_cons]
      omega

theorem wf_cellsAt (off : Nat) (v : List Byte) : Memory.wf (cellsAt off v) := by
  induction v generalizing off with
  | nil => exact List.Pairwise.nil
  | cons b rest ih =>
    exact List.Pairwise.cons (fun c hc => by have := mem_cellsAt hc; simp only; omega) (ih _)

theorem wf_nil : Memory.wf [] := List.Pairwise.nil

/-- A write keeps the canonical form. -/
theorem wf_write {m : Memory} (h : m.wf) (off : Nat) (v : List Byte) : (m.write off v).wf := by
  refine List.pairwise_append.2 ⟨h.filter _, List.pairwise_append.2
    ⟨wf_cellsAt off v, h.filter _, ?_⟩, ?_⟩
  · intro c hc d hd
    have := mem_cellsAt hc
    have := (List.mem_filter.1 hd).2
    simp only [decide_eq_true_eq] at this
    omega
  · intro c hc d hd
    have hc := (List.mem_filter.1 hc).2
    simp only [decide_eq_true_eq] at hc
    obtain hd | hd := List.mem_append.1 hd
    · have := mem_cellsAt hd; omega
    · have := (List.mem_filter.1 hd).2
      simp only [decide_eq_true_eq] at this
      omega

/-- A write inside the bounds keeps them. -/
theorem bounded_write {m : Memory} {cap off : Nat} {v : List Byte} (h : ∀ c ∈ m, c.1 < cap)
    (hv : off + v.length ≤ cap) : ∀ c ∈ m.write off v, c.1 < cap := by
  intro c hc
  obtain hc | hc := List.mem_append.1 hc
  · exact h c (List.mem_filter.1 hc).1
  · obtain hc | hc := List.mem_append.1 hc
    · have := mem_cellsAt hc; omega
    · exact h c (List.mem_filter.1 hc).1

/-- In canonical form an offset before every entry is unlisted. -/
theorem get?_eq_none_of_lt {m : Memory} {a : Nat} (h : ∀ c ∈ m, a < c.1) : m.get? a = none := by
  induction m with
  | nil => rfl
  | cons c m ih =>
    obtain ⟨k, b⟩ := c
    have := h _ (List.mem_cons_self ..)
    rw [get?_cons, if_neg (by simp only at this; omega)]
    exact ih fun c hc => h c (List.mem_cons_of_mem _ hc)

/-- Equal contents in canonical form are equal lists. -/
theorem memory_ext {m n : Memory} (hm : m.wf) (hn : n.wf) (h : ∀ a, m.get? a = n.get? a) : m = n := by
  induction m generalizing n with
  | nil =>
    cases n with
    | nil => rfl
    | cons d n => obtain ⟨l, e⟩ := d; have := h l; simp [get?_cons] at this
  | cons c m ih =>
    obtain ⟨k, b⟩ := c
    obtain ⟨hc, hm'⟩ := List.pairwise_cons.1 hm
    cases n with
    | nil => have := h k; simp [get?_cons] at this
    | cons d n =>
      obtain ⟨l, e⟩ := d
      obtain ⟨hd, hn'⟩ := List.pairwise_cons.1 hn
      have hmk : Memory.get? m k = none := get?_eq_none_of_lt hc
      have hnl : Memory.get? n l = none := get?_eq_none_of_lt hd
      have hkl : k = l := by
        rcases Nat.lt_trichotomy k l with hlt | heq | hgt
        · have := h k
          rw [get?_cons, if_pos rfl, get?_cons, if_neg (by omega),
            get?_eq_none_of_lt fun c hc => by have := hd c hc; simp only at this; omega] at this
          simp at this
        · exact heq
        · have := h l
          rw [get?_cons, if_neg (by omega), get?_cons, if_pos rfl,
            get?_eq_none_of_lt fun c hc' => by have := hc c hc'; simp only at this; omega] at this
          simp at this
      subst hkl
      have hbe : b = e := by simpa [get?_cons] using h k
      subst hbe
      rw [ih hm' hn' fun a => ?_]
      by_cases ha : k = a
      · subst ha; rw [hmk, hnl]
      · simpa [get?_cons, ha] using h a

end Sys2Proof.Machine
end

