-- ==== Sys2Proof/Laws/Ops.lean ====
section
/-! SUPPORT. What the shared operations over the buffers do: bounds checks, MemRead, MemWrite and Append
(20_memory.md R58, R59), and that each keeps the canonical form and the bounds. -/

namespace Sys2Proof.Machine

/-! ### Bounds checks -/

theorem inBounds_eq_true {P : Params} {b : Buffer} {off n : Nat} (h : off + n ≤ capacity P b) :
    inBounds P b off n = true := decide_eq_true h

theorem inBounds_eq_false {P : Params} {b : Buffer} {off n : Nat} (h : capacity P b < off + n) :
    inBounds P b off n = false := decide_eq_false (by omega)

/-- Two bounds checks, as the commands make them, when both pass. -/
theorem bothInBounds {P : Params} {b c : Buffer} {off n off' n' : Nat}
    (h : off + n ≤ capacity P b) (h' : off' + n' ≤ capacity P c) :
    (!inBounds P b off n || !inBounds P c off' n') = false := by
  simp [inBounds_eq_true h, inBounds_eq_true h']

/-- Two bounds checks, as the commands make them, when one fails. -/
theorem notBothInBounds {P : Params} {b c : Buffer} {off n off' n' : Nat}
    (h : capacity P b < off + n ∨ capacity P c < off' + n') :
    (!inBounds P b off n || !inBounds P c off' n') = true := by
  obtain h | h := h <;> simp [inBounds_eq_false h]

/-! ### MemRead -/

/-- A read of written bytes is those bytes. -/
theorem memRead_eq {b : Buffer} {s : State} {k : Nat} {v : List Byte}
    (h : ∀ i, i < v.length → (s.buf b).get? (k + i) = v[i]?) : memRead b k v.length s = v := by
  refine List.ext_getElem? fun i => ?_
  by_cases hi : i < v.length
  · have hv : v[i]? = some v[i] := List.getElem?_eq_getElem hi
    rw [hv]
    exact getElem?_memRead_written hi ((h i hi).trans hv)
  · rw [List.getElem?_eq_none (by simp; omega), List.getElem?_eq_none (by omega)]

/-! ### MemWrite and Append -/

/-- What a byte of the written buffer reads after a MemWrite. -/
theorem get?_buf_memWrite (b : Buffer) (off : Nat) (v : List Byte) (s : State) (a : Nat) :
    ((memWrite b off v s).buf b).get? a =
      if off ≤ a ∧ a < off + v.length then v[a - off]? else (s.buf b).get? a := by
  rw [memWrite, buf_setBuf_same, get?_write]

/-- What a byte of BMP reads after an Append. -/
theorem get?_bmp_append (v : List Byte) (s : State) (a : Nat) :
    (append v s).bmp.get? a =
      if s.byteCount.toNat ≤ a ∧ a < s.byteCount.toNat + v.length then v[a - s.byteCount.toNat]?
      else s.bmp.get? a :=
  get?_write _ _ _ _

/-- An Append that fits in BMP does not wrap BYTE_COUNT. -/
theorem toNat_append_byteCount {v : List Byte} {s : State} (hp : s.params.Legal)
    (hv : s.byteCount.toNat + v.length ≤ s.params.bmpCap) :
    (append v s).byteCount.toNat = s.byteCount.toNat + v.length := by
  have := hp.bmp.2
  simp only [append_byteCount, BitVec.toNat_ofNat]
  omega

/-- A MemWrite inside the capacity keeps every buffer in canonical form and in bounds. -/
theorem buffersOk_memWrite {b : Buffer} {off : Nat} {v : List Byte} {s : State} (h : BuffersOk s)
    (hv : off + v.length ≤ capacity s.params b) : BuffersOk (memWrite b off v s) := by
  intro c
  by_cases hc : c = b
  · subst hc
    rw [memWrite, buf_setBuf_same, setBuf_params]
    exact ⟨wf_write (h c).1 _ _, bounded_write (h c).2 hv⟩
  · rw [memWrite, buf_setBuf_of_ne s _ hc, setBuf_params]
    exact h c

theorem buffersOk_append {v : List Byte} {s : State} (h : BuffersOk s)
    (hv : s.byteCount.toNat + v.length ≤ s.params.bmpCap) : BuffersOk (append v s) :=
  buffersOk_memWrite (b := .bmp) h hv

/-- The buffers of the reset state list nothing. -/
theorem buffersOk_resetOf (P : Params) : BuffersOk (State.resetOf P) := by
  intro b
  cases b <;> exact ⟨wf_nil, by simp [State.resetOf, State.buf]⟩

end Sys2Proof.Machine
end

