-- ==== Sys2Proof/Laws/Registers.lean ====
section
/-! SUPPORT. The bits of the STATUS and interrupt words (10_state.md R24, R26, R27), the register window
(R22), and the conditions of the operand registers (42_atlas.md R121). -/

namespace Sys2Proof.Machine

/-- Each bit of an IRQ word, the reserved ones 0 (R26, R27). -/
theorem irqWord_bits (b : IrqBits) :
    (irqWord b).getLsbD 0 = b.done ∧ (irqWord b).getLsbD 1 = b.err ∧
    ∀ i, 2 ≤ i → (irqWord b).getLsbD i = false := by
  have h : ∀ i, (irqWord b).getLsbD i =
      ((0#30 ++ BitVec.ofBool b.err ++ BitVec.ofBool b.done : BitVec (30 + 1 + 1)).getLsbD i) :=
    fun _ => rfl
  simp only [h, BitVec.getLsbD_append]
  refine ⟨by simp, by simp, fun i hi => ?_⟩
  simp [show ¬i < 1 by omega, show ¬i - 1 < 1 by omega]

/-- Each field of the STATUS word, the reserved bits 0 (R24). -/
theorem statusWord_bits (st : Status) :
    (statusWord st).getLsbD 0 = st.busy ∧ (statusWord st).getLsbD 1 = st.err ∧
    (statusWord st).getLsbD 2 = st.layoutValid ∧ (statusWord st).getLsbD 3 = st.fmtValid ∧
    (statusWord st).getLsbD 4 = st.atlasActive ∧ (statusWord st).getLsbD 5 = st.atlasDone ∧
    (statusWord st).getLsbD 6 = st.metValid ∧ (statusWord st).getLsbD 7 = false ∧
    (statusWord st).extractLsb' 8 8 = st.errCode ∧ (statusWord st).extractLsb' 16 16 = 0 := by
  have h : ∀ i, (statusWord st).getLsbD i =
      ((0#16 ++ st.errCode ++ 0#1 ++ BitVec.ofBool st.metValid ++ BitVec.ofBool st.atlasDone ++
        BitVec.ofBool st.atlasActive ++ BitVec.ofBool st.fmtValid ++ BitVec.ofBool st.layoutValid ++
        BitVec.ofBool st.err ++ BitVec.ofBool st.busy :
          BitVec (16 + 8 + 1 + 1 + 1 + 1 + 1 + 1 + 1 + 1)).getLsbD i) := fun _ => rfl
  refine ⟨?_, ?_, ?_, ?_, ?_, ?_, ?_, ?_, ?_, ?_⟩
  iterate 8
    · simp only [h, BitVec.getLsbD_append]; simp
  all_goals
    refine BitVec.eq_of_getLsbD_eq fun i hi => ?_
    rw [BitVec.getLsbD_extractLsb', h]
    simp only [BitVec.getLsbD_append]
  · simp [hi, show ¬8 + i < 1 by omega]
  · simp [hi]

/-- The register window has exactly the registers' offsets (R22). -/
theorem regAt_eq_some {off : Nat} {r : Reg} : regAt off = some r ↔ off = regOffset r := by
  constructor
  · intro h
    unfold regAt at h
    split at h <;> cases h <;> rfl
  · rintro rfl; cases r <;> rfl

/-- The bit of a code in the render set (R31). -/
theorem rset_eq_bit (o : OperandRegs) {c : Nat} (h : c < 128) :
    o.rset c = ([o.rset0, o.rset1, o.rset2, o.rset3].getD (c / 32) 0).getLsbD (c % 32) := by
  have hk : c / 32 < 4 := by omega
  unfold OperandRegs.rset
  generalize c / 32 = k at hk
  match k, hk with
  | 0, _ => rfl
  | 1, _ => rfl
  | 2, _ => rfl
  | 3, _ => rfl

theorem rangeLegal_iff (o : OperandRegs) :
    o.rangeLegal = true ↔ o.rangeStart.toNat ≤ o.rangeEnd.toNat ∧ o.rangeEnd.toNat ≤ 127 := by
  simp [OperandRegs.rangeLegal]

theorem rsetInRange_iff (o : OperandRegs) :
    o.rsetInRange = true ↔
      ∀ c, c < 128 → o.rset c = true → o.rangeStart.toNat ≤ c ∧ c ≤ o.rangeEnd.toNat := by
  simp only [OperandRegs.rsetInRange, List.all_eq_true, List.mem_range, Bool.or_eq_true,
    Bool.not_eq_true', decide_eq_true_eq]
  refine forall₂_congr fun c hc => ?_
  cases o.rset c <;> simp

/-- The four registers are 0 exactly when no code is in the render set. -/
theorem rsetEmpty_iff (o : OperandRegs) :
    o.rsetEmpty = true ↔ ∀ c, c < 128 → o.rset c = false := by
  constructor
  · intro hz c _
    simp only [OperandRegs.rsetEmpty, Bool.and_eq_true, beq_iff_eq] at hz
    obtain ⟨⟨⟨z0, z1⟩, z2⟩, z3⟩ := hz
    simp only [OperandRegs.rset, z0, z1, z2, z3]
    split <;> simp
  · intro h
    have z : ∀ k, k < 4 → ∀ i, i < 32 → o.rset (32 * k + i) = false :=
      fun k hk i hi => h _ (by omega)
    simp only [OperandRegs.rsetEmpty, Bool.and_eq_true, beq_iff_eq]
    refine ⟨⟨⟨?_, ?_⟩, ?_⟩, ?_⟩ <;> ext i hi <;> rw [← BitVec.getLsbD_eq_getElem]
    · simpa [OperandRegs.rset, show (32 * 0 + i) / 32 = 0 by omega, show i / 32 = 0 by omega,
        Nat.mod_eq_of_lt hi] using z 0 (by omega) i hi
    · simpa [OperandRegs.rset, show (32 + i) / 32 = 1 by omega,
        show (32 + i) % 32 = i by omega] using z 1 (by omega) i hi
    · simpa [OperandRegs.rset, show (64 + i) / 32 = 2 by omega,
        show (64 + i) % 32 = i by omega] using z 2 (by omega) i hi
    · simpa [OperandRegs.rset, show (96 + i) / 32 = 3 by omega,
        show (96 + i) % 32 = i by omega] using z 3 (by omega) i hi

theorem rsetEmpty_eq_false_iff (o : OperandRegs) :
    o.rsetEmpty = false ↔ ∃ c, c < 128 ∧ o.rset c = true := by
  rw [← Bool.not_eq_true, rsetEmpty_iff]
  push Not
  simp

end Sys2Proof.Machine
end

