-- ==== Sys2Proof/Laws/HostPort.lean ====
section
/-! SUPPORT. What a host access does: at the register window, at a buffer window, and while BUSY = 1
(20_memory.md R51 to R57, R62). -/

namespace Sys2Proof.Machine

/-! ### The register window -/

/-- A 32-bit read in the register window: 0 where no register is, a bus error off a multiple of 4. -/
theorem hostRead_register {off : Nat} (h : off < 0x1000) (s : State) :
    hostRead .w32 off s =
      if off % 4 = 0 then (.data (((regAt off).map (readReg s)).getD 0), s) else (.busError, s) := by
  simp [hostRead, placeAt, h, regAccessOk]

/-- A 32-bit write at a multiple of 4 in the register window is performed. -/
theorem hostWrite_register {off : Nat} (h : off < 0x1000) (h4 : off % 4 = 0) (v : Word) (s : State) :
    hostWrite .w32 off v s = (.done, ((regAt off).map (writeReg v s)).getD s) := by
  simp [hostWrite, placeAt, h, regAccessOk, h4]

/-! ### The buffer windows -/

/-- Each buffer's window holds its bytes below the capacity (R51). -/
theorem placeAt_bufferBase {P : Params} (hP : P.Legal) {b : Buffer} {k : Nat} (hk : k < capacity P b) :
    placeAt (bufferBase b + k) = .buffer b k := by
  obtain ⟨-, h1, h2, h3, h4, -⟩ := hP
  cases b <;> simp only [capacity, bufferBase] at * <;> unfold placeAt <;>
    (repeat' split) <;> simp <;> omega

/-- An aligned read inside a buffer returns the value of its bytes (R53, R55). -/
theorem hostRead_buffer {s : State} (hP : s.params.Legal) {b : Buffer} {w : Width} {k n : Nat}
    (hw : widthBytes w = some n) (hn : 0 < n) (hk : k % n = 0) (hc : k + n ≤ capacity s.params b) :
    hostRead w (bufferBase b + k) s = (.data (valueOf (memRead b k n s)), drawn n s) := by
  simp [hostRead, placeAt_bufferBase hP (show k < capacity s.params b by omega), hw, bufferAccessOk, hk,
    inBounds_eq_true hc, readBuffer]

/-- An aligned write inside SRC or IDX stores the value's bytes (R53, R55, R56). -/
theorem hostWrite_buffer {s : State} (hP : s.params.Legal) {b : Buffer} (hb : hostWritable b = true)
    {w : Width} {k n : Nat} (v : Word) (hw : widthBytes w = some n) (hn : 0 < n) (hk : k % n = 0)
    (hc : k + n ≤ capacity s.params b) :
    hostWrite w (bufferBase b + k) v s = (.done, memWrite b k (bytesOf n v) s) := by
  simp [hostWrite, placeAt_bufferBase hP (show k < capacity s.params b by omega), hw, hb, bufferAccessOk,
    hk, inBounds_eq_true hc]

/-- The value of the n bytes of a word is its low 8n bits (R55). -/
theorem getLsbD_valueOf_bytesOf (n : Nat) (v : Word) {i : Nat} (hi : i < 32) :
    (valueOf (bytesOf n v)).getLsbD i = (decide (i < 8 * n) && v.getLsbD i) := by
  induction n generalizing v i with
  | zero => simp [bytesOf, valueOf]
  | succ n ih =>
    rw [bytesOf, valueOf, BitVec.getLsbD_or, BitVec.getLsbD_shiftLeft, BitVec.getLsbD_setWidth,
      BitVec.getLsbD_setWidth]
    by_cases h : i < 8
    · simp [h, hi, show i < 8 * (n + 1) by omega]
    · rw [ih (v >>> 8) (by omega), BitVec.getLsbD_ushiftRight, show 8 + (i - 8) = i by omega]
      simp [h, hi, show (i - 8 < 8 * n) = (i < 8 * (n + 1)) by simp only [eq_iff_iff]; omega]

/-! ### While BUSY = 1 -/

/-- An access that completes while BUSY = 1 gives a response and changes nothing (R57, R62). -/
theorem completeAccess_whileBusy {off : Nat} {a : Access} (h : completesWhileBusy off a = true)
    (s : State) : ∃ r, completeAccess off a s =
      { s with inputs := s.inputs.tail, responses := s.responses ++ [r] } := by
  cases a with
  | write w addr v => simp [completesWhileBusy] at h
  | read w addr =>
    simp only [completesWhileBusy, Bool.and_eq_true, beq_iff_eq, Bool.or_eq_true] at h
    obtain ⟨rfl, rfl | rfl⟩ := h <;> exact ⟨_, rfl⟩

end Sys2Proof.Machine
end

