-- ==== Sys2Proof/Laws/Image.lean ====
section
/-! SUPPORT. The bytes of a packed image (41_quantize_pack.md R105, R110, R111) and of a little-endian
value (20_memory.md R55). -/

namespace Sys2Proof.Machine

/-- Two 4-bit indices in one byte (R105). -/
theorem toNat_packPair {a b : Byte} (ha : a.toNat ≤ 15) (hb : b.toNat ≤ 15) :
    (packPair a b).toNat = 16 * a.toNat + b.toNat := by
  have key : ∀ x y : Fin 16,
      (packPair (BitVec.ofNat 8 x) (BitVec.ofNat 8 y)).toNat = 16 * x + y := by decide +kernel
  simpa using key ⟨a.toNat, by omega⟩ ⟨b.toNat, by omega⟩

/-- The 4-bit quantizer over the naturals; it stays in 4 bits (R101). -/
theorem toNat_quantize_four (x : Byte) : (quantize .four x).toNat = (x.toNat * 15 + 135) / 256 := by
  have := x.isLt
  simp only [quantize, BitVec.toNat_ofNat, Nat.shiftRight_eq_div_pow]
  omega

theorem quantize_four_le (x : Byte) : (quantize .four x).toNat ≤ 15 := by
  have := x.isLt
  rw [toNat_quantize_four]
  omega

/-- A sample's place, row by row, is below the number of samples. -/
theorem place_lt {w h r c : Nat} (hr : r < h) (hc : c < w) : r * w + c < w * h := by
  have := Nat.mul_le_mul_right w (show r + 1 ≤ h from hr)
  rw [Nat.succ_mul] at this
  rw [Nat.mul_comm w h]
  omega

theorem getElem?_packImage_eight {w h p : Nat} {x : List Byte} (hx : x.length = w * h) (hp : w ≤ p)
    {r c : Nat} (hr : r < h) (hc : c < w) :
    (packImage .eight w h p x)[r * p + c]? = x[r * w + c]? := by
  have := getElem?_rowPad (q := x.map (quantize .eight)) (by simpa using hx) hp hr
    (Nat.lt_of_lt_of_le hc hp)
  have hq : quantize .eight = id := rfl
  rw [if_pos hc] at this
  simpa [packImage, pack, PackDepth.depth, hq] using this

/-- Byte j of row r at 4 bits is the pair of columns 2j and 2j + 1, a padding column 0. -/
theorem getElem?_packImage_four {w h l : Nat} {x : List Byte} (hx : x.length = w * h) (hp : w ≤ 2 * l)
    {r j : Nat} (hr : r < h) (hj : 2 * j < w) :
    (packImage .four w h (2 * l) x)[r * l + j]? =
      (x[r * w + 2 * j]?).map fun hi => packPair (quantize .four hi)
        (if 2 * j + 1 < w then ((x[r * w + (2 * j + 1)]?).map (quantize .four)).getD 0 else 0) := by
  have hlen : (x.map (quantize .four)).length = w * h := by simpa using hx
  have h0 := getElem?_rowPad hlen hp hr (show 2 * j < 2 * l by omega)
  have h1 := getElem?_rowPad hlen hp hr (show 2 * j + 1 < 2 * l by omega)
  rw [if_pos hj] at h0
  rw [packImage, pack, getElem?_packNibbles,
    show 2 * (r * l + j) = r * (2 * l) + 2 * j by rw [Nat.mul_add, Nat.mul_left_comm], Nat.add_assoc]
  simp only [PackDepth.depth]
  rw [h0, h1, List.getElem?_map]
  by_cases hc : 2 * j + 1 < w <;> simp [hc, Function.comp_def]

/-- Byte i of a little-endian value (20_memory.md R55). -/
theorem getElem?_bytesOf {n : Nat} {v : Word} {i : Nat} (h : i < n) :
    (bytesOf n v)[i]? = some (v.extractLsb' (8 * i) 8) := by
  induction n generalizing v i with
  | zero => omega
  | succ n ih =>
    cases i with
    | zero =>
      simp only [bytesOf, List.getElem?_cons_zero, Option.some.injEq]
      refine BitVec.eq_of_getLsbD_eq fun j hj => ?_
      simp
    | succ i =>
      rw [bytesOf, List.getElem?_cons_succ, ih (by omega)]
      congr 1
      refine BitVec.eq_of_getLsbD_eq fun j hj => ?_
      simp [show 8 + (8 * i + j) = 8 * (i + 1) + j by omega]

end Sys2Proof.Machine
end

