-- ==== Sys2Proof/Laws/Metrics.lean ====
section
/-! SUPPORT. The bytes of the metrics table (43_metrics.md R141, R142). -/

namespace Sys2Proof.Machine

@[simp] theorem length_widthTable (o : OperandRegs) : (widthTable o).length = 128 := by
  simp [widthTable]

@[simp] theorem length_metricsTable (s : State) : (metricsTable s).length = 148 := by
  simp [metricsTable]

/-- The width entry of a code (R141). -/
theorem metricsTable_width (s : State) {c : Nat} (h : c < 128) :
    (metricsTable s)[c]? = some (if s.op.rset c then s.op.cfgAdvance else 0) := by
  rw [metricsTable, List.getElem?_append_left (by simpa using h)]
  simp [widthTable, h]

/-- Byte i of each of the five fields (R142). -/
theorem metricsTable_fields (s : State) {i : Nat} (h : i < 4) :
    (metricsTable s)[128 + i]? = (le32 s.layout.fmt)[i]? ∧
    (metricsTable s)[132 + i]? = (le32 s.layout.stride)[i]? ∧
    (metricsTable s)[136 + i]? = (le32 s.layout.padw)[i]? ∧
    (metricsTable s)[140 + i]? = (le32 (s.op.cfgHeight.setWidth 32))[i]? ∧
    (metricsTable s)[144 + i]? = some 0 := by
  have hz : ∀ j, j < 4 → (le32 0)[j]? = some 0 := by decide
  refine ⟨?_, ?_, ?_, ?_, ?_⟩ <;>
    simp only [metricsTable, List.getElem?_append, length_widthTable, length_le32]
  · rw [if_neg (by omega), if_pos (by omega), show 128 + i - 128 = i by omega]
  · rw [if_neg (by omega), if_neg (by omega), if_pos (by omega),
      show 132 + i - 128 - 4 = i by omega]
  · rw [if_neg (by omega), if_neg (by omega), if_neg (by omega), if_pos (by omega),
      show 136 + i - 128 - 4 - 4 = i by omega]
  · rw [if_neg (by omega), if_neg (by omega), if_neg (by omega), if_neg (by omega),
      if_pos (by omega), show 140 + i - 128 - 4 - 4 - 4 = i by omega]
  · rw [if_neg (by omega), if_neg (by omega), if_neg (by omega), if_neg (by omega),
      if_neg (by omega), show 144 + i - 128 - 4 - 4 - 4 - 4 = i by omega, hz i h]

/-- Byte i of a word, least significant first (00_scope.md R12). -/
theorem getElem?_le32 (v : Word) {i : Nat} (h : i < 4) :
    (le32 v)[i]? = some (v.extractLsb' (8 * i) 8) := by
  have hb : ∀ n (u : Word), BitVec.setWidth 8 (u >>> n) = u.extractLsb' n 8 := by
    intro n u; ext j; simp
  have h0 : v.setWidth 8 = v.extractLsb' 0 8 := by simpa using hb 0 v
  rw [le32]
  match i, h with
  | 0, _ => simp only [bytesOf, List.getElem?_cons_zero, h0, Nat.mul_zero]
  | 1, _ => simp only [bytesOf, List.getElem?_cons_zero, List.getElem?_cons_succ, hb]
  | 2, _ =>
    simp only [bytesOf, List.getElem?_cons_zero, List.getElem?_cons_succ, ← BitVec.shiftRight_add, hb]
  | 3, _ =>
    simp only [bytesOf, List.getElem?_cons_zero, List.getElem?_cons_succ, ← BitVec.shiftRight_add, hb]

end Sys2Proof.Machine
end

