-- ==== Sys2Proof/Laws/PerInstr.lean ====
section
/-! SUPPORT. Statements about every command, one lemma per constructor. -/

/-- The word of a command with an encoding has the command's opcode in OP, its depth in D and 0 in RSV
(30_encoding.md R71, R74). -/
def Sys2Proof.Laws.EncodedFields.Statement (i : Sys2Proof.Instr) : Prop :=
  i.wf = true →
    Sys2Proof.opField (Sys2Proof.encode i) = (Sys2Proof.opcodeOf i).toNat ∧
    Sys2Proof.dField (Sys2Proof.encode i) = Sys2Proof.depthOf i ∧
    Sys2Proof.rsvField (Sys2Proof.encode i) = 0

namespace Sys2Proof.Laws.EncodedFields

/-- The fields of any command's word. -/
theorem fields_of_encode (i : Instr) : Statement i := by
  intro h
  have hd := depthOf_lt h
  have ho := opcodeOf_lt i
  rw [opField_eq, dField_eq, rsvField_eq, encode_toNat h]
  omega

theorem nop : Statement .nop := fields_of_encode _

theorem clear : Statement .clear := fields_of_encode _

theorem layout (d : Nat) : Statement (.layout d) := fields_of_encode _

theorem quant (d : Nat) : Statement (.quant d) := fields_of_encode _

theorem pack (d : Nat) : Statement (.pack d) := fields_of_encode _

theorem bitmap : Statement .bitmap := fields_of_encode _

theorem atlasBegin : Statement .atlasBegin := fields_of_encode _

theorem cell : Statement .cell := fields_of_encode _

theorem atlasEnd : Statement .atlasEnd := fields_of_encode _

theorem metrics : Statement .metrics := fields_of_encode _

end Sys2Proof.Laws.EncodedFields
end

