-- ==== Sys2Proof/Laws/Preview.lean ====
section
/-! SUPPORT. What compositing a glyph into the atlas preview writes (42_atlas.md R125, R127). -/

namespace Sys2Proof.Machine

/-- Two places of rows of pitch p are the same only in the same row and column. -/
theorem row_col_unique {p r c r' c' : Nat} (hc : c < p) (hc' : c' < p)
    (h : r * p + c = r' * p + c') : r = r' ∧ c = c' := by
  rcases Nat.lt_trichotomy r r' with hr | rfl | hr
  · have := Nat.mul_le_mul_right p (show r + 1 ≤ r' from hr)
    rw [Nat.succ_mul] at this
    omega
  · exact ⟨rfl, by omega⟩
  · have := Nat.mul_le_mul_right p (show r' + 1 ≤ r from hr)
    rw [Nat.succ_mul] at this
    omega

theorem wf_previewRows {p w h off : Nat} {x : List Byte} {m : Memory} (hm : m.wf) :
    (previewRows p w h off x m).wf := by
  induction h generalizing off x m with
  | zero => exact hm
  | succ h ih => exact ih (wf_write hm _ _)

theorem bounded_previewRows {p w h off cap : Nat} {x : List Byte} {m : Memory} (hwp : w ≤ p)
    (hm : ∀ c ∈ m, c.1 < cap) (hoff : off + h * p ≤ cap) :
    ∀ c ∈ previewRows p w h off x m, c.1 < cap := by
  induction h generalizing off x m with
  | zero => exact hm
  | succ h ih =>
    rw [Nat.succ_mul] at hoff
    refine ih (bounded_write hm ?_) (by omega)
    have := List.length_take_le w x
    omega

/-- Every byte outside the rows written is as before. -/
theorem get?_previewRows_outside {p w h off : Nat} {x : List Byte} {m : Memory} {a : Nat}
    (ha : ∀ r c, r < h → c < w → a ≠ off + r * p + c) :
    (previewRows p w h off x m).get? a = m.get? a := by
  induction h generalizing off x m with
  | zero => rfl
  | succ h ih =>
    rw [previewRows, ih, get?_write, if_neg]
    · rintro ⟨h1, h2⟩
      have := List.length_take_le w x
      exact ha 0 (a - off) (by omega) (by omega) (by omega)
    · intro r c hr hc
      have := ha (r + 1) c (by omega) hc
      rw [Nat.succ_mul] at this
      omega

/-- Row r, column c of the rows written is the sample there. -/
theorem get?_previewRows_inside {p w h off : Nat} {x : List Byte} {m : Memory} (hwp : w ≤ p)
    (hx : x.length = w * h) {r c : Nat} (hr : r < h) (hc : c < w) :
    (previewRows p w h off x m).get? (off + r * p + c) = x[r * w + c]? := by
  induction h generalizing off x m r with
  | zero => omega
  | succ h ih =>
    have hw : w ≤ x.length := by rw [hx]; exact Nat.le_mul_of_pos_right w (by omega)
    have hd : (x.drop w).length = w * h := by rw [List.length_drop, hx, Nat.mul_succ]; omega
    have ht : (x.take w).length = w := by rw [List.length_take]; omega
    rw [previewRows]
    cases r with
    | zero =>
      rw [get?_previewRows_outside, get?_write, if_pos ⟨by omega, by omega⟩,
        List.getElem?_take_of_lt (by omega)]
      · congr 1; omega
      · intro r' c' hr' hc'
        have := Nat.zero_le (r' * p)
        omega
    | succ r =>
      have := ih (off := off + p) (m := m.write off (x.take w)) hd (show r < h by omega)
      rw [show off + p + r * p + c = off + (r + 1) * p + c by rw [Nat.succ_mul]; omega] at this
      rw [this, List.getElem?_drop]
      congr 1
      rw [Nat.succ_mul]; omega

end Sys2Proof.Machine
end

