-- ==== Sys2Proof/Laws/Step.lean ====
section
/-! SUPPORT. What the engine, a host access and a step of the block can do. -/

namespace Sys2Proof.Machine

/-- A word is not dropped: no error is recorded, or it is CLEAR's. -/
theorem dropsWord_eq_false {s : State} :
    dropsWord s = false ↔ s.status.err = false ∨ s.cmdLatch = 0x00000001#32 := by
  unfold dropsWord
  cases s.status.err <;> simp

/-- The engine step drops the word, faults on an illegal one, or executes a command. -/
theorem engineStep_cases {s t : State} (h : engineStep s = .next t) :
    (s.status.err = true ∧ s.cmdLatch ≠ 0x00000001#32 ∧ t = dropCommand s) ∨
    ((s.status.err = false ∨ s.cmdLatch = 0x00000001#32) ∧
      ((∃ e, decode s.cmdLatch = .error e ∧ t = faultEntry .badCommand s) ∨
       ∃ i, decode s.cmdLatch = .ok i ∧ exec i s = .next t)) := by
  unfold engineStep at h
  split at h
  · rename_i hd
    cases h
    simp only [dropsWord, Bool.and_eq_true, bne_iff_ne] at hd
    exact .inl ⟨hd.1, hd.2, rfl⟩
  · rename_i hd
    refine .inr ⟨dropsWord_eq_false.1 (by simpa using hd), ?_⟩
    split at h
    · rename_i e he
      cases h; exact .inl ⟨e, he, rfl⟩
    · rename_i i hi
      exact .inr ⟨i, hi, h⟩

/-- Executing a decoded command, when its word is not dropped. -/
theorem engineStep_of_decode {s : State} {i : Instr}
    (hd : s.status.err = false ∨ s.cmdLatch = 0x00000001#32) (hi : decode s.cmdLatch = .ok i) :
    engineStep s = exec i s := by
  unfold engineStep
  rw [dropsWord_eq_false.2 hd, if_neg (by simp), hi]

/-- The effect of an access on the block: none, some draws, a register write, or a write inside SRC or
IDX. -/
theorem performAt_cases (off : Nat) (s : State) (a : Access) :
    (performAt off s a).2 = s ∨
    (∃ n, (performAt off s a).2 = drawn n s) ∨
    (∃ w addr v r, a = .write w addr v ∧ regAt off = some r ∧ (performAt off s a).2 = writeReg v s r) ∨
    (∃ w addr v b k n, a = .write w addr v ∧ (b = .src ∨ b = .idx) ∧ k + n ≤ capacity s.params b ∧
      (performAt off s a).2 = memWrite b k (bytesOf n v) s) := by
  have hplace : ∀ r, placeAt off = .reg r → r = off := by
    intro r hr
    unfold placeAt at hr
    split_ifs at hr
    exact (Place.reg.inj hr).symm
  cases a with
  | read w addr =>
    simp only [performAt, hostRead]
    split
    · exact .inl rfl
    · split <;> exact .inl rfl
    · split
      · exact .inl rfl
      · split
        · exact .inr (.inl ⟨_, rfl⟩)
        · exact .inl rfl
  | write w addr v =>
    simp only [performAt, hostWrite]
    split
    · exact .inl rfl
    · rename_i r hr
      cases hplace r hr
      split
      · cases hreg : regAt off with
        | none => exact .inl rfl
        | some r => exact .inr (.inr (.inl ⟨w, addr, v, r, rfl, rfl, rfl⟩))
      · exact .inl rfl
    · rename_i b k hb
      split
      · exact .inl rfl
      · rename_i n hn
        split
        · rename_i hok
          rw [Bool.and_eq_true] at hok
          refine .inr (.inr (.inr ⟨w, addr, v, b, k, n, rfl, ?_, ?_, rfl⟩))
          · cases b <;> simp_all [hostWritable]
          · have := hok.2
            simp only [bufferAccessOk, Bool.and_eq_true, inBounds, decide_eq_true_eq] at this
            exact this.2
        · exact .inl rfl

/-- A step of the block: it waits, uses up an idle turn, runs the engine, is reset, or completes an
access. -/
theorem step_cases {s t : State} (h : step s = .next t) :
    (s.inputs = [] ∧ s.status.busy = false ∧ t = s) ∨
    (∃ rest, s.inputs = .idle :: rest ∧ s.status.busy = false ∧ t = popInput s) ∨
    (s.status.busy = true ∧ ∃ u, engineStep u = .next t ∧
      ((u = s ∧ ∀ rest, s.inputs ≠ .reset :: rest) ∨
        ∃ rest, s.inputs = .idle :: rest ∧ u = popInput s)) ∨
    (∃ rest, s.inputs = .reset :: rest ∧ t = resetBlock (popInput s)) ∨
    (∃ a rest off, s.inputs = .access a :: rest ∧ apertureOffset s.params a.addr = some off ∧
      (s.status.busy = false ∨ completesWhileBusy off a = true) ∧ t = completeAccess off a s) := by
  unfold step nextTurn at h
  split at h
  · rename_i hin
    unfold engineTurn at h
    split at h
    · rename_i hb
      exact .inr (.inr (.inl ⟨hb, s, h, .inl ⟨rfl, by simp [hin]⟩⟩))
    · rename_i hb
      cases h
      exact .inl ⟨hin, by simpa using hb, rfl⟩
  · rename_i rest hin
    unfold engineTurn at h
    split at h
    · rename_i hb
      exact .inr (.inr (.inl ⟨hb, popInput s, h, .inr ⟨rest, hin, rfl⟩⟩))
    · rename_i hb
      cases h
      exact .inr (.inl ⟨rest, hin, by simpa using hb, rfl⟩)
  · rename_i rest hin
    cases h
    exact .inr (.inr (.inr (.inl ⟨rest, hin, rfl⟩)))
  · rename_i a rest hin
    unfold accessTurn at h
    split at h
    · cases h
    · rename_i off hoff
      split at h
      · rename_i hb
        rw [Bool.and_eq_true] at hb
        exact .inr (.inr (.inl ⟨hb.1, s, h, .inl ⟨rfl, by simp [hin]⟩⟩))
      · rename_i hb
        cases h
        refine .inr (.inr (.inr (.inr ⟨a, rest, off, hin, hoff, ?_, rfl⟩)))
        cases hbz : s.status.busy
        · exact .inl rfl
        · right; simpa [hbz] using hb

/-- The aperture offset of an address (20_memory.md R50). -/
theorem apertureOffset_eq_some {P : Params} {addr off : Nat} :
    apertureOffset P addr = some off ↔
      P.blockBase ≤ addr ∧ addr < P.blockBase + 0x800000 ∧ off = addr - P.blockBase := by
  unfold apertureOffset
  split
  · rename_i h; constructor
    · intro h'; cases h'; exact ⟨h.1, h.2, rfl⟩
    · rintro ⟨-, -, rfl⟩; rfl
  · rename_i h; constructor
    · intro h'; cases h'
    · rintro ⟨h1, h2, -⟩; exact absurd ⟨h1, h2⟩ h

end Sys2Proof.Machine
end

