-- ==== Sys2Proof/Tests/Slice0.lean ====
section
/-! SUPPORT. The model's own tests. Every expected value is one of 95_test_vectors.md, or read off the
encoding tables of 30_encoding.md; none is the model's own answer. After them, one witness for the
hypotheses of each statement of the obligations that has any. -/

namespace Sys2Proof.Tests

open Sys2Proof Sys2Proof.Machine

/-! ### Well-formedness -/

theorem test_layout_depth_16_has_no_encoding : (Instr.layout 16).wf = false := by decide

theorem test_quant_depth_16_has_no_encoding : (Instr.quant 16).wf = false := by decide

theorem test_pack_depth_256_has_no_encoding : (Instr.pack 256).wf = false := by decide

theorem test_every_depth_of_four_bits_has_an_encoding :
    ((List.range 16).all fun d => (Instr.layout d).wf && (Instr.quant d).wf && (Instr.pack d).wf) =
      true := by decide

/-! ### Decoding: words written out from the fields RSV, D, OP of R71 and the opcodes of R74 -/

/-- A word from its three fields, most significant first. -/
def wordOf (rsv : BitVec 20) (d : BitVec 4) (op : BitVec 8) : Word := rsv ++ d ++ op

theorem test_decode_control :
    decode (wordOf 0 0b0000 0b00000000) = .ok .nop ∧
    decode (wordOf 0 0b0000 0b00000001) = .ok .clear := by decide

theorem test_decode_layout :
    decode (wordOf 0 0b0001 0b00010000) = .ok (.layout 1) ∧
    decode (wordOf 0 0b1000 0b00010000) = .ok (.layout 8) ∧
    decode (wordOf 0 0b1111 0b00010000) = .ok (.layout 15) := by decide

theorem test_decode_quantize_and_pack :
    decode (wordOf 0 0b0100 0b00100000) = .ok (.quant 4) ∧
    decode (wordOf 0 0b1001 0b00100000) = .ok (.quant 9) ∧
    decode (wordOf 0 0b0100 0b00100001) = .ok (.pack 4) ∧
    decode (wordOf 0 0b0010 0b00100001) = .ok (.pack 2) ∧
    decode (wordOf 0 0b0000 0b00100010) = .ok .bitmap := by decide

theorem test_decode_atlas :
    decode (wordOf 0 0b0000 0b00110000) = .ok .atlasBegin ∧
    decode (wordOf 0 0b0000 0b00110001) = .ok .cell ∧
    decode (wordOf 0 0b0000 0b00110010) = .ok .atlasEnd := by decide

theorem test_decode_metrics : decode (wordOf 0 0b0000 0b01000000) = .ok .metrics := by decide

/-- 95_test_vectors.md 3.8: the illegal words, each under the name of what makes it illegal. -/
theorem test_decode_rejects_by_name :
    decode 0x00001000#32 = .error .reservedBits ∧
    decode 0x80000000#32 = .error .reservedBits ∧
    decode 0x00000002#32 = .error .unlistedOpcode ∧
    decode 0x00000023#32 = .error .unlistedOpcode ∧
    decode 0x000000FF#32 = .error .unlistedOpcode ∧
    decode 0x00000101#32 = .error .unexpectedDepth ∧
    decode 0x00000130#32 = .error .unexpectedDepth := by decide

/-- 30_encoding.md R74: the words of the table, from the encoder. -/
theorem test_encode_words :
    encode (.layout 4) = 0x00000410#32 ∧ encode (.quant 8) = 0x00000820#32 ∧
    encode (.pack 4) = 0x00000421#32 ∧ encode .metrics = 0x00000040#32 := by decide

theorem test_table_word : decodeTableWord 32 0x410 = some (.layout 4) := by decide

/-! ### States -/

/-- The next state's field, if there is a next state. -/
def field {α : Type} (f : State → α) : Result → Option α
  | .next t => some (f t)
  | .fault _ => none
  | .refused _ => none

/-- What a test looks at: STATUS as a word, ERRCMD, and the IRQ_PEND word. -/
def record (s : State) : Word × Word × Word := (statusWord s.status, s.errCmd, irqWord s.irqPend)

/-- The bytes of a buffer from offset 0, those that are written. -/
def bytes (m : Memory) (n : Nat) : List (Option Byte) := (List.range n).map m.get?

/-- The reset state with a latched word. -/
def latched (w : Word) (s : State) : State :=
  { s with cmdLatch := w, status := { s.status with busy := true } }

/-- A state with a layout: depth, width, height, and what LAYOUT computes for them. -/
def withLayout (d : BitVec 4) (w h : Half) (padw stride fmt : Word) (s : State) : State :=
  { s with
    layout := ⟨padw, stride, fmt, d, w⟩,
    op := { s.op with cfgWidth := w, cfgHeight := h },
    status := { s.status with layoutValid := true, fmtValid := d != 1 } }

/-- 95_test_vectors.md 3.5: base setup A. -/
def setupA : State :=
  let s := withLayout 4 3 2 4 2 2 State.reset
  { s with op := { s.op with rangeStart := 65, rangeEnd := 67, rset2 := 0xA } }

/-- Setup A with an atlas open and its preview zeroed. -/
def openA : State :=
  { setupA with
    status := { setupA.status with atlasActive := true }, nextCode := 65,
    atlas := cellsAt 0 (List.replicate 24 0),
    src := cellsAt 0 [0xFF, 0x00, 0xFF, 0x00, 0xFF, 0x00] }

/-! ### One step of each command -/

/-- 95_test_vectors.md 3.7: NOP from reset. -/
theorem test_nop : field record (step (latched 0x00000000#32 State.reset)) = some (0, 0, 1) := by
  decide

/-- 95_test_vectors.md 3.7: NOP after a fault is dropped. -/
theorem test_nop_dropped :
    field record (step (latched 0x00000000#32 (faulted 0x03 State.reset))) =
      some (0x0302#32, 0, 2) := by decide

/-- 95_test_vectors.md, program P3: CLEAR after a fault keeps the layout and IRQ_PEND.ERR. -/
theorem test_clear :
    field record (step (latched 0x00000001#32
      { faulted 0x03 (withLayout 1 8 0 8 1 0 State.reset) with irqPend := ⟨true, true⟩ })) =
      some (0x0004#32, 0, 3) := by decide

/-- 95_test_vectors.md L1-9: 12 pixels at 1 bpp pad to 16, 2 bytes, with no format. -/
theorem test_layout_one :
    field (fun t => (t.layout, statusWord t.status))
      (step (latched 0x00000110#32 { State.reset with op := { State.reset.op with cfgWidth := 12 } })) =
      some (⟨16, 2, 0, 1, 12⟩, 0x0004#32) := by decide

/-- 95_test_vectors.md 3.1: the widest row at 4 bpp. -/
theorem test_layout_widest :
    field (fun t => (t.layout, statusWord t.status))
      (step (latched 0x00000410#32
        { State.reset with op := { State.reset.op with cfgWidth := 0xFFFF } })) =
      some (⟨65536, 32768, 2, 4, 0xFFFF⟩, 0x000C#32) := by decide

/-- 95_test_vectors.md 3.2: QUANT 4. -/
theorem test_quant_four :
    field (fun t => bytes t.idx 5)
      (step (latched 0x00000420#32
        { State.reset with
          src := cellsAt 0 [0x00, 0x11, 0x88, 0xFF, 0x80], op := { State.reset.op with len := 5 } })) =
      some [some 0x00, some 0x01, some 0x08, some 0x0F, some 0x08] := by decide

/-- 95_test_vectors.md 3.2: the sum of offset and length does not wrap at 32 bits. -/
theorem test_quant_does_not_wrap :
    field record (step (latched 0x00000420#32
      { State.reset with op := { State.reset.op with srcOff := 0xFFFFFFFF, len := 1 } })) =
      some (0x0802#32, 0x00000420#32, 2) := by decide

/-- 95_test_vectors.md 3.3: PACK 4 of an odd number of indices. -/
theorem test_pack_four_odd :
    field (fun t => (bytes t.bmp 3, t.byteCount))
      (step (latched 0x00000421#32
        { State.reset with
          idx := cellsAt 0 [0x00, 0x01, 0x08, 0x0F, 0x08], op := { State.reset.op with len := 5 } })) =
      some ([some 0x01, some 0x8F, some 0x80], 3) := by decide

/-- 95_test_vectors.md 3.3: an index above 15 faults and packs nothing. -/
theorem test_pack_index_range :
    field (fun t => (record t, t.byteCount, t.bmp))
      (step (latched 0x00000421#32
        { State.reset with
          idx := cellsAt 0 [0x01, 0x10], op := { State.reset.op with len := 2 } })) =
      some ((0x0A02#32, 0x00000421#32, 2), 0, []) := by decide

/-- 95_test_vectors.md 3.4: rows of 5 pixels padded to 6. -/
theorem test_bitmap_pads_rows :
    field (fun t => (bytes t.bmp 6, t.byteCount))
      (step (latched 0x00000022#32
        { withLayout 4 5 2 6 3 2 State.reset with
          src := cellsAt 0 [0x00, 0x22, 0x44, 0x66, 0x88, 0xAA, 0xCC, 0xEE, 0xFF, 0x11] })) =
      some ([some 0x02, some 0x46, some 0x80, some 0xAC, some 0xEF, some 0x10], 6) := by decide

/-- 95_test_vectors.md 3.4: BITMAP from reset. -/
theorem test_bitmap_needs_a_layout :
    field record (step (latched 0x00000022#32 State.reset)) =
      some (0x0502#32, 0x00000022#32, 2) := by decide

/-- 95_test_vectors.md 3.5: ATLAS_BEGIN from setup A. -/
theorem test_atlas_begin :
    field (fun t => (statusWord t.status, t.nextCode, t.atlasBase, bytes t.atlas 25))
      (step (latched 0x00000030#32 setupA)) =
      some (0x001C#32, 65, 0, List.replicate 24 (some 0) ++ [none]) := by decide

/-- 95_test_vectors.md 3.5: BadRange comes before EmptyRenderSet. -/
theorem test_atlas_begin_priority :
    field record (step (latched 0x00000030#32
      { setupA with op := { setupA.op with rset2 := 0, rangeEnd := 0x80 } })) =
      some (0x060E#32, 0x00000030#32, 2) := by decide

/-- 95_test_vectors.md 3.5: the first CELL, code 65, rendered. -/
theorem test_cell_rendered :
    field (fun t => (bytes t.bmp 4, t.nextCode, bytes t.atlas 8))
      (step (latched 0x00000031#32 openA)) =
      some ([some 0xF0, some 0xF0, some 0x0F, some 0x00], 66,
        [some 0xFF, some 0x00, some 0xFF, some 0x00, some 0x00, some 0xFF, some 0x00, some 0x00]) := by
  decide

/-- 95_test_vectors.md 3.5: a missing code, whatever SRC_OFF holds. -/
theorem test_cell_missing :
    field (fun t => (bytes t.bmp 8, t.byteCount, t.nextCode))
      (step (latched 0x00000031#32
        { openA with
          nextCode := 66, byteCount := 4, bmp := cellsAt 0 [0xF0, 0xF0, 0x0F, 0x00],
          op := { openA.op with srcOff := 0xFFFFFFFF } })) =
      some ([some 0xF0, some 0xF0, some 0x0F, some 0x00, some 0x00, some 0x00, some 0x00, some 0x00], 8,
        67) := by decide

/-- 95_test_vectors.md 3.5: ATLAS_END after the last cell. -/
theorem test_atlas_end :
    field (fun t => statusWord t.status)
      (step (latched 0x00000032#32 { openA with nextCode := 68, byteCount := 12 })) =
      some 0x002C#32 := by decide

/-- 95_test_vectors.md 3.5: ATLAS_END after one cell. -/
theorem test_atlas_end_too_early :
    field record (step (latched 0x00000032#32 { openA with nextCode := 66, byteCount := 4 })) =
      some (0x090E#32, 0x00000032#32, 2) := by decide

/-- 95_test_vectors.md 3.6: METRICS from setup A with an advance of 4. -/
theorem test_metrics :
    field (fun t => (t.met.map Prod.snd, t.status.metValid))
      (step (latched 0x00000040#32 { setupA with op := { setupA.op with cfgAdvance := 4 } })) =
      some (List.replicate 65 0 ++ [4, 0, 4] ++ List.replicate 60 0 ++
        [2, 0, 0, 0, 2, 0, 0, 0, 4, 0, 0, 0, 2, 0, 0, 0, 0, 0, 0, 0], true) := by decide

/-- 95_test_vectors.md 3.5: METRICS under a 1-bpp layout. -/
theorem test_metrics_needs_a_format :
    field record (step (latched 0x00000040#32 (withLayout 1 3 2 8 1 0 setupA))) =
      some (0x0306#32, 0x00000040#32, 2) := by decide

/-! ### The host -/

/-- 95_test_vectors.md 3.9: unmapped register offsets, a narrow register access, a misaligned one. -/
theorem test_register_window :
    (hostRead .w32 0x000FFC State.reset).1 = .data 0 ∧
    (hostRead .w16 0x000004 State.reset).1 = .busError ∧
    (hostRead .w32 0x000002 State.reset).1 = .busError ∧
    (hostRead .w8 0x001094 State.reset).1 = .busError ∧
    (hostRead .w32 0x500000 State.reset).1 = .busError := by decide

/-- 95_test_vectors.md 3.9: two bytes written, read back as a little-endian half word. -/
theorem test_host_little_endian :
    (hostRead .w16 0x100000 { State.reset with src := cellsAt 0 [0x34, 0x12] }).1 =
      .data 0x1234#32 := by decide

/-- 10_state.md R31: code 33 is bit 1 of RSET1. -/
theorem test_render_set_bit :
    ((List.range 128).filter ({ State.reset.op with rset1 := 2 } : OperandRegs).rset) = [33] := by decide

/-- 95_test_vectors.md 3.9: the last word of SRC, and one byte past it. -/
theorem test_host_capacity :
    (hostWrite .w32 0x100FFC 0x04030201#32 State.reset).2.src =
      [(4092, 1), (4093, 2), (4094, 3), (4095, 4)] ∧
    (hostWrite .w8 0x101000 0 State.reset).1 = .busError ∧
    (hostWrite .w8 0x300000 0 State.reset).1 = .busError := by decide

/-- 95_test_vectors.md 3.5: in an open atlas RSET2 keeps its value and CFG_WIDTH does not. -/
theorem test_lock :
    readReg (writeReg 0 openA .rset2) .rset2 = 0xA ∧
    readReg (writeReg 9 openA .cfgWidth) .cfgWidth = 9 := by decide

/-- 95_test_vectors.md 3.5: `range 65, 67` and `rset 65, 67` (30_encoding.md R79). -/
theorem test_pseudo_statements :
    Stmt.events Params.vectors (.range 65 67) = [.access (.write .w32 0x020 0x4341#32)] ∧
    rsetMask 2 [65, 67] = 0xA ∧ rsetMask 1 [65, 67] = 0 := by decide

/-- The interface of the host: a word placed by `withFetchWord` is the next step's. -/
theorem test_with_fetch_word :
    field record (step (State.reset.withFetchWord 32 0x820)) = some (0, 0, 1) := by decide

/-! ### Witnesses: a concrete state and operands that meet the hypotheses of each statement together, one
for each clause, at a boundary where the clause has one -/

/-- A machine of 4-byte buffers. -/
def tiny : Params := ⟨0x800000, 4, 4, 4, 4, 2, 3⟩

theorem tiny_legal : tiny.Legal := ⟨by decide, by decide, by decide, by decide, by decide, by decide⟩

/-- An open atlas of codes 126 and 127 on the tiny machine, at the top of the code range: glyphs of one
8-bit pixel, 126 rendered (as 0x7F) and 127 missing, with `n` cells emitted. -/
def emitted (n : Nat) : State :=
  { State.resetOf tiny with
    status := ⟨false, false, true, true, true, false, false, 0⟩
    op := ⟨1, 1, 6, 126, 127, 0, 0, 0, 0x40000000, 3, 0, 0⟩
    layout := ⟨1, 1, 3, 8, 1⟩
    byteCount := BitVec.ofNat 32 n
    nextCode := BitVec.ofNat 8 (126 + n)
    src := [(3, 0x7F)]
    bmp := [(0, 0x7F), (1, 0x00)].take n
    atlas := [(0, if n = 0 then 0x00 else 0x7F), (1, 0x00)] }

/-- The invariant of an open atlas without an error, as bounded checks. -/
abbrev OpenChecks (s : State) : Prop :=
  (∀ b ∈ [Buffer.src, .idx, .bmp, .atlas, .met],
    (s.buf b).wf ∧ ∀ c ∈ s.buf b, c.1 < capacity s.params b) ∧
  (s.status.err = false ∧ s.status.errCode = 0 ∧ s.errCmd = 0 ∧ s.status.layoutValid = true ∧
    s.status.fmtValid = true ∧ s.status.atlasDone = false ∧ s.status.metValid = false) ∧
  (s.layout.layoutBd.toNat = Depth.eight.bits ∧
    s.layout.padw.toNat = paddedWidth s.layout.layoutWidth.toNat Depth.eight.bits ∧
    s.layout.stride.toNat = lineStride s.layout.layoutWidth.toNat Depth.eight.bits ∧
    s.layout.fmt = formatId s.params .eight) ∧
  (s.byteCount.toNat ≤ s.params.bmpCap ∧ s.atlasBase.toNat ≤ s.byteCount.toNat ∧
    s.nextCode.toNat ≤ 128 ∧ ∀ a, a < s.byteCount.toNat → (s.bmp.get? a).isSome = true) ∧
  (s.op.rangeLegal = true ∧ s.op.rsetEmpty = false ∧ s.op.rsetInRange = true ∧ 0 < s.width ∧
    0 < s.height ∧ s.op.rangeStart.toNat ≤ s.nextCode.toNat ∧
    s.nextCode.toNat ≤ s.op.rangeEnd.toNat + 1) ∧
  (s.byteCount.toNat = s.atlasBase.toNat + s.cellIndex * s.cellBytes ∧
    s.atlasBase.toNat + s.op.nCodes * s.cellBytes ≤ s.params.bmpCap ∧
    s.padw * s.height * s.op.nCodes ≤ s.params.atlasCap) ∧
  (∀ k, k < s.cellIndex → s.op.rset (s.op.rangeStart.toNat + k) = false → ∀ j, j < s.cellBytes →
    s.bmp.get? (s.atlasBase.toNat + k * s.cellBytes + j) = some 0) ∧
  (∀ a, a < s.padw * s.height * s.op.nCodes → (s.atlas.get? a).isSome = true) ∧
  (∀ row, row < s.height * s.op.nCodes → ∀ col, col < s.padw → s.width ≤ col →
    s.atlas.get? (row * s.padw + col) = some 0) ∧
  (∀ k, k < s.op.nCodes →
    (s.cellIndex ≤ k ∨ s.op.rset (s.op.rangeStart.toNat + k) = false) → ∀ j, j < s.height * s.padw →
    s.atlas.get? (k * s.height * s.padw + j) = some 0)

theorem inv_of_openChecks {s : State} (hp : s.params.Legal) (h : OpenChecks s) : Inv s := by
  obtain ⟨hb, ⟨e1, e2, e3, e4, e5, e6, e7⟩, ⟨l1, l2, l3, l4⟩, ⟨c1, c2, c3, c4⟩,
    ⟨r1, r2, r3, r4, r5, r6, r7⟩, ⟨f1, f2, f3⟩, hm, hv, hpad, hu⟩ := h
  exact
    { params := hp
      buffers := fun b => hb b (by cases b <;> simp)
      faultRecord := ⟨fun _ => ⟨e2, e3⟩, fun h => by simp [e1] at h⟩
      layout := ⟨fun h => by simp [e4] at h, fun _ => ⟨.eight, l1, l2, l3, l4, by simp [e5]⟩⟩
      counts := ⟨c1, c2, c3, fun a ha => Option.isSome_iff_exists.1 (c4 a ha)⟩
      atlasOpen := fun _ =>
        { layout := ⟨e4, e5⟩, notDone := e6, range := r1, nonempty := r2, subset := r3
          geometry := ⟨r4, r5⟩, next := ⟨r6, r7⟩, filled := f1, fitsBmp := f2, fitsAtlas := f3
          missing := fun k j hk hr hj => hm k hk hr j hj
          preview := fun a ha => Option.isSome_iff_exists.1 (hv a ha)
          padding := fun row col hr hw hc => hpad row hr col hc hw
          unlit := fun k j hk h hj => hu k hk h j hj }
      atlasDone := fun h => by simp [e6] at h
      metrics := fun h => by simp [e7] at h }

/-- The invariant says nothing of a latched word, nor of the host's events. -/
def handed (busy : Bool) (w : Word) (events : List HostEvent) (s : State) : State :=
  { s with cmdLatch := w, status := { s.status with busy := busy }, inputs := events }

theorem inv_handed {s : State} (h : Inv s) (busy : Bool) (w : Word) (events : List HostEvent) :
    Inv (handed busy w events s) where
  params := h.params
  buffers := h.buffers
  faultRecord := h.faultRecord
  layout := h.layout
  counts := h.counts
  atlasOpen := fun ha =>
    { layout := (h.atlasOpen ha).layout, notDone := (h.atlasOpen ha).notDone
      range := (h.atlasOpen ha).range, nonempty := (h.atlasOpen ha).nonempty
      subset := (h.atlasOpen ha).subset, geometry := (h.atlasOpen ha).geometry
      next := (h.atlasOpen ha).next, filled := (h.atlasOpen ha).filled
      fitsBmp := (h.atlasOpen ha).fitsBmp, fitsAtlas := (h.atlasOpen ha).fitsAtlas
      missing := (h.atlasOpen ha).missing, preview := (h.atlasOpen ha).preview
      padding := (h.atlasOpen ha).padding, unlit := (h.atlasOpen ha).unlit }
  atlasDone := h.atlasDone
  metrics := h.metrics

theorem emitted_inv_zero : Inv (emitted 0) :=
  inv_of_openChecks tiny_legal ⟨by decide, by decide, by decide, by decide, by decide, by decide,
    by decide, by decide, by decide, by decide⟩

theorem emitted_inv_one : Inv (emitted 1) :=
  inv_of_openChecks tiny_legal ⟨by decide, by decide, by decide, by decide, by decide, by decide,
    by decide, by decide, by decide, by decide⟩

theorem emitted_inv_two : Inv (emitted 2) :=
  inv_of_openChecks tiny_legal ⟨by decide, by decide, by decide, by decide, by decide, by decide,
    by decide, by decide, by decide, by decide⟩

/-- The reset state with an error recorded. -/
def errored : State := faulted 0x02 State.reset

theorem witness_IllegalWordsRaiseBadCommand :
    ∀ w ∈ [0x00001000#32, 0x00000002#32, 0x00000101#32],
      (latched w State.reset).cmdLatch = w ∧ (latched w State.reset).status.err = false ∧
      ∃ e, decode w = .error e := by
  intro w hw
  simp only [List.mem_cons, List.not_mem_nil, or_false] at hw
  obtain rfl | rfl | rfl := hw <;> exact ⟨rfl, rfl, _, rfl⟩

theorem witness_StepExecutesDecodedCommand :
    (∃ (s : State) (i : Instr), s.status.busy = true ∧ s.status.err = false ∧ decode s.cmdLatch = .ok i ∧ s.inputs = []) ∧
    (∃ (s : State) (i : Instr) (rest : List HostEvent), s.status.busy = true ∧ s.cmdLatch = 0x00000001#32 ∧ decode s.cmdLatch = .ok i ∧
      s.inputs = .idle :: rest) ∧
    (∃ (s : State) (i : Instr) (a : Access) (rest : List HostEvent), s.status.busy = true ∧ s.status.err = false ∧ decode s.cmdLatch = .ok i ∧
      s.inputs = .access a :: rest ∧ InAperture s.params (.access a) ∧
      completesWhileBusy (a.addr - s.params.blockBase) a = false) :=
  ⟨⟨latched 0x410 State.reset, _, rfl, rfl, rfl, rfl⟩,
    ⟨{ latched 1 errored with inputs := [.idle] }, _, _, rfl, rfl, rfl, rfl⟩,
    ⟨{ latched 0x410 State.reset with inputs := [.access (.read .w32 0x7FFFFF)] }, _, _, _, rfl, rfl, rfl,
      rfl, ⟨by decide, by decide⟩, rfl⟩⟩

theorem witness_StickyErrorDropsAllButClear :
    (∃ s : State, s.status.err = true ∧ s.cmdLatch ≠ 0x00000001#32) ∧
    (∃ s : State, s.status.err = true ∧ s.cmdLatch = 0x00000001#32) :=
  ⟨⟨latched 0x101 errored, rfl, by decide⟩, ⟨latched 1 errored, rfl, rfl⟩⟩

/-- The three ends of an engine step. -/
theorem witness_EngineStepCompletesFaultsOrDrops :
    (∃ t, engineStep (latched 0 State.reset) = .next t ∧ t.irqPend.done = true) ∧
    (∃ t, engineStep (latched 2 State.reset) = .next t ∧ t.irqPend.err = true) ∧
    (∃ t, engineStep (latched 2 errored) = .next t ∧ t.status.err = true) :=
  ⟨⟨_, rfl, rfl⟩, ⟨_, rfl, rfl⟩, ⟨_, rfl, rfl⟩⟩

theorem witness_FaultsArePrecise :
    ∃ t, State.reset.status.err = false ∧ exec .bitmap State.reset = .next t ∧ t.status.err = true :=
  ⟨_, rfl, rfl, rfl⟩

/-- Each command that can fault does, from an errorless state. -/
theorem witness_CommandsRaiseOnlyTheirFaults :
    ∀ i ∈ [Instr.layout 15, .quant 0, .pack 1, .bitmap, .atlasBegin, .cell, .atlasEnd, .metrics],
      State.reset.status.err = false ∧ ∃ t, exec i State.reset = .next t ∧ t.status.err = true := by
  intro i hi
  simp only [List.mem_cons, List.not_mem_nil, or_false] at hi
  obtain rfl | rfl | rfl | rfl | rfl | rfl | rfl | rfl := hi <;> exact ⟨rfl, _, rfl, rfl⟩

theorem witness_OperandRegistersAreWrittenByTheHostOnly :
    (∃ i s t, exec i s = .next t) ∧ (∃ s t, step s = .next t ∧ t.op ≠ s.op) :=
  ⟨⟨.nop, State.reset, _, rfl⟩,
    ⟨{ State.reset with inputs := [.access (.write .w32 0x03C 7)] }, _, rfl, by decide⟩⟩

theorem witness_MetChangesOnlyByMetrics :
    ∃ s t a, step s = .next t ∧ t.met.get? a ≠ s.met.get? a :=
  ⟨latched 0x40 setupA, _, 147, rfl, by decide⟩

theorem witness_LayoutValidIsClearedByResetOnly :
    (∃ s t, step s = .next t ∧ t.status.layoutValid ≠ s.status.layoutValid ∧
      s.status.layoutValid = true) ∧
    (∃ s t, step s = .next t ∧ t.status.layoutValid ≠ s.status.layoutValid ∧
      s.status.layoutValid = false) :=
  ⟨⟨{ setupA with inputs := [.reset] }, _, rfl, by decide, rfl⟩,
    ⟨latched 0x110 State.reset, _, rfl, by decide, rfl⟩⟩

theorem witness_PackedBytesAreAppendOnly :
    ∃ s t, Inv s ∧ step s = .next t ∧ (∀ rest, s.inputs ≠ .reset :: rest) ∧
      0 < s.byteCount.toNat ∧ t.byteCount.toNat < s.byteCount.toNat :=
  ⟨handed true 1 [] (emitted 1), _, inv_handed emitted_inv_one _ _ _, rfl, by simp [handed], by decide, by decide⟩

theorem witness_ResetMeetsTheInvariant : tiny.Legal := tiny_legal

theorem witness_StepKeepsTheInvariant : ∃ s t, Inv s ∧ step s = .next t :=
  ⟨handed true 0x31 [] (emitted 0), _, inv_handed emitted_inv_zero _ _ _, rfl⟩

theorem witness_TheBlockNeverStops :
    (∃ s : State, Inv s ∧ s.inputs ≠ [] ∧ ∀ e ∈ s.inputs, InAperture s.params e) ∧
    ∀ addr ∈ [0x7FFFFF, 0x1000000], ∃ (s : State) (rest : List HostEvent),
      s.inputs = .access (.read .w32 addr) :: rest ∧
      ¬InAperture s.params (.access (.read .w32 addr)) := by
  refine ⟨⟨handed true 0x31 [.access (.read .w8 0xFFFFFF), .idle] (emitted 0),
    inv_handed emitted_inv_zero _ _ _, by simp [handed], fun e he => ?_⟩, fun addr ha => ?_⟩
  · simp only [handed, List.mem_cons, List.not_mem_nil, or_false] at he
    obtain rfl | rfl := he
    · exact ⟨by decide, by decide⟩
    · trivial
  · refine ⟨handed false 0 [.access (.read .w32 addr)] (emitted 0), [], rfl, fun h => ?_⟩
    simp only [List.mem_cons, List.not_mem_nil, or_false] at ha
    have h1 : 0x800000 ≤ addr := h.1
    have h2 : addr < 0x800000 + 0x800000 := h.2
    omega

theorem witness_LatchedCommandsAreEventuallyStepped :
    ∃ s : State, Inv s ∧ s.status.busy = true ∧ s.inputs ≠ [] ∧
      (∀ e ∈ s.inputs, InAperture s.params e) ∧ HostEvent.reset ∉ s.inputs :=
  ⟨handed true 0x31 [.access (.read .w32 0x800004)] (emitted 0), inv_handed emitted_inv_zero _ _ _, rfl,
    by simp [handed], by
      intro e he
      simp only [handed, List.mem_singleton] at he
      subst he
      exact ⟨by decide, by decide⟩, by simp [handed]⟩

theorem witness_LayoutComputesTheGeometry :
    15 < 16 ∧ openA.status.atlasActive = true ∧
    (State.reset.status.atlasActive = false ∧ 0 ∉ [1, 4, 8] ∧ 15 ∉ [1, 4, 8]) ∧
    (State.reset.status.atlasActive = false ∧ ∀ d ∈ [1, 4, 8], d ∈ [1, 4, 8]) := by decide

theorem witness_PaddedWidthIsTheLeastByteAlignedWidth :
    1 ∈ [1, 4, 8] ∧ 4 ∈ [1, 4, 8] ∧ 8 ∈ [1, 4, 8] ∧ (65535 ≤ 65536 ∧ 65536 * 1 % 8 = 0) := by decide

theorem witness_LayoutResultsMeetTheirInvariants :
    ∃ s t, exec (.layout 1) s = .next t ∧ s.status.err = false ∧ t.status.err = false ∧
      s.op.cfgWidth = 0xFFFF :=
  ⟨{ State.reset with op := { State.reset.op with cfgWidth := 0xFFFF } }, _, rfl, rfl, rfl, rfl⟩

theorem witness_QuantizerRoundsToNearest : (127#8).toNat ≤ (128#8).toNat := by decide

/-- One sample at the last byte of SRC, one index at the last byte of IDX. -/
theorem witness_QuantStoresTheIndices :
    ∃ s : State, s.op.srcOff.toNat + s.op.len.toNat ≤ s.params.srcCap ∧
      s.op.idxOff.toNat + s.op.len.toNat ≤ s.params.idxCap ∧
      0 < s.op.len.toNat ∧ s.src.get? (s.op.srcOff.toNat + 0) = some 0x80 :=
  ⟨{ State.reset with
      op := { State.reset.op with srcOff := 4095, idxOff := 4095, len := 1 }, src := [(4095, 0x80)] },
    by decide, by decide, by decide, by decide⟩

theorem witness_QuantFaults :
    0 ∉ [1, 4, 8] ∧
    (∃ s : State, 8 ∈ [1, 4, 8] ∧ s.params.srcCap < s.op.srcOff.toNat + s.op.len.toNat) ∧
    (∃ s : State, 8 ∈ [1, 4, 8] ∧ s.params.idxCap < s.op.idxOff.toNat + s.op.len.toNat) :=
  ⟨by decide,
    ⟨{ State.reset with op := { State.reset.op with srcOff := 0xFFFFFFFF, len := 1 } }, by decide,
      by decide⟩,
    ⟨{ State.reset with op := { State.reset.op with idxOff := 4096, len := 1 } }, by decide, by decide⟩⟩

theorem witness_PackerRoundTrips :
    ((∀ b ∈ [0x01#8, 0x0F#8], b.toNat ≤ 15) ∧ [0x01#8, 0x0F#8].length % 2 = 0) ∧
    ((∀ b ∈ [0x0F#8], b.toNat ≤ 15) ∧ [0x0F#8].length % 2 = 1) := by decide

/-- Three indices that fill BMP to its last byte. -/
theorem witness_PackEightAppendsTheIndices :
    ∃ s : State, s.params.Legal ∧ s.status.atlasActive = false ∧
      s.op.idxOff.toNat + s.op.len.toNat ≤ s.params.idxCap ∧
      s.byteCount.toNat + s.op.len.toNat ≤ s.params.bmpCap ∧ s.op.len = 3 ∧
      s.idx.get? (s.op.idxOff.toNat + 0) = some 0xC8 :=
  ⟨{ State.resetOf tiny with
      byteCount := 1, op := { State.reset.op with len := 3 }, idx := cellsAt 0 [0xC8, 0x00, 0xFF] },
    tiny_legal, rfl, by decide, by decide, rfl, by decide⟩

theorem witness_PackFourAppendsNibblePairs :
    ∃ (s : State) (x : Nat → Byte), s.params.Legal ∧ s.status.atlasActive = false ∧
      s.op.idxOff.toNat + s.op.len.toNat ≤ s.params.idxCap ∧
      s.byteCount.toNat + (s.op.len.toNat + 1) / 2 ≤ s.params.bmpCap ∧ s.op.len = 3 ∧
      ∀ i, i < s.op.len.toNat →
        s.idx.get? (s.op.idxOff.toNat + i) = some (x i) ∧ (x i).toNat ≤ 15 :=
  ⟨{ State.resetOf tiny with
      byteCount := 2, op := { State.reset.op with len := 3, idxOff := 1 },
      idx := cellsAt 1 [0x0F, 0x0F, 0x0F] },
    fun _ => 0x0F, tiny_legal, rfl, by decide, by decide, rfl, by decide⟩

theorem witness_PackFaults :
    openA.status.atlasActive = true ∧
    (State.reset.status.atlasActive = false ∧ 1 ∉ [4, 8]) ∧
    (∃ s : State, s.status.atlasActive = false ∧ 8 ∈ [4, 8] ∧
      s.params.idxCap < s.op.idxOff.toNat + s.op.len.toNat) ∧
    (∃ s : State, s.status.atlasActive = false ∧ 4 ∈ [4, 8] ∧
      s.params.bmpCap < s.byteCount.toNat + (s.op.len.toNat + 1) / 2) ∧
    (∃ s : State, s.status.atlasActive = false ∧
      s.op.idxOff.toNat + s.op.len.toNat ≤ s.params.idxCap ∧
      s.byteCount.toNat + (s.op.len.toNat + 1) / 2 ≤ s.params.bmpCap ∧
      ∃ i x, i < s.op.len.toNat ∧ s.idx.get? (s.op.idxOff.toNat + i) = some x ∧ 15 < x.toNat) :=
  ⟨rfl, ⟨rfl, by decide⟩,
    ⟨{ State.reset with op := { State.reset.op with len := 4097 } }, rfl, by decide, by decide⟩,
    ⟨{ State.reset with op := { State.reset.op with len := 1 }, byteCount := 4096 }, rfl, by decide,
      by decide⟩,
    ⟨{ State.reset with op := { State.reset.op with len := 1 }, byteCount := 4095, idx := [(0, 0x10)] },
      rfl, by decide, by decide, 0, 0x10, by decide, by decide, by decide⟩⟩

/-- Rows of 1 pixel at 4 bpp (padded to 2), two of them. -/
def imageState : State :=
  { withLayout 4 1 2 2 1 2 State.reset with
    src := cellsAt 4094 [0xFF, 0x88], byteCount := 4094,
    op := { State.reset.op with cfgWidth := 1, cfgHeight := 2, srcOff := 4094 } }

theorem imageState_layout : LayoutOk imageState :=
  ⟨fun h => (nomatch h), fun _ => ⟨.four, by decide, by decide, by decide, rfl, rfl⟩⟩

theorem vectors_legal : Params.vectors.Legal :=
  ⟨by decide, by decide, by decide, by decide, by decide, by decide⟩

theorem witness_BitmapAppendsPaddedRows :
    ∃ (s : State) (x : Nat → Byte), s.params.Legal ∧ LayoutOk s ∧ s.status.layoutValid = true ∧
      s.layout.layoutBd.toNat ∈ [4, 8] ∧ s.status.atlasActive = false ∧
      s.op.srcOff.toNat + s.width * s.height ≤ s.params.srcCap ∧
      s.byteCount.toNat + s.stride * s.height ≤ s.params.bmpCap ∧
      (∀ i, i < s.width * s.height → s.src.get? (s.op.srcOff.toNat + i) = some (x i)) ∧
      0 < s.stride * s.height :=
  ⟨imageState, fun i => if i = 0 then 0xFF else 0x88, vectors_legal, imageState_layout, rfl, by decide,
    rfl, by decide, by decide, by decide, by decide⟩

theorem witness_BitmapCompletesOnUnwrittenSamples :
    ∃ s : State, s.params.Legal ∧ LayoutOk s ∧ s.status.layoutValid = true ∧
      s.layout.layoutBd.toNat ∈ [4, 8] ∧ s.status.atlasActive = false ∧
      s.op.srcOff.toNat + s.width * s.height ≤ s.params.srcCap ∧
      s.byteCount.toNat + s.stride * s.height ≤ s.params.bmpCap ∧ s.src = [] :=
  ⟨{ imageState with src := [] }, vectors_legal, imageState_layout, rfl, by decide, rfl, by decide,
    by decide, rfl⟩

theorem witness_BitmapFaults :
    openA.status.atlasActive = true ∧
    (State.reset.status.atlasActive = false ∧ State.reset.status.layoutValid = false) ∧
    (∃ s : State, s.status.atlasActive = false ∧ s.status.layoutValid = true ∧
      s.layout.layoutBd.toNat ∉ [4, 8]) ∧
    (∃ s : State, s.status.atlasActive = false ∧ s.status.layoutValid = true ∧
      s.layout.layoutBd.toNat ∈ [4, 8] ∧ s.params.srcCap < s.op.srcOff.toNat + s.width * s.height) ∧
    (∃ s : State, s.status.atlasActive = false ∧ s.status.layoutValid = true ∧
      s.layout.layoutBd.toNat ∈ [4, 8] ∧ s.params.bmpCap < s.byteCount.toNat + s.stride * s.height) :=
  ⟨rfl, ⟨rfl, rfl⟩, ⟨withLayout 1 8 1 8 1 0 State.reset, rfl, rfl, by decide⟩,
    ⟨{ imageState with op := { imageState.op with srcOff := 4095 } }, rfl, rfl, by decide, by decide⟩,
    ⟨{ imageState with byteCount := 4095 }, rfl, rfl, by decide, by decide⟩⟩

theorem witness_BitmapEqualsQuantThenPack :
    ∃ (s : State) (x : Nat → Byte), s.params.Legal ∧ LayoutOk s ∧ s.status.layoutValid = true ∧
      s.layout.layoutBd.toNat ∈ [4, 8] ∧ s.status.atlasActive = false ∧ s.width = s.padw ∧
      s.op.len.toNat = s.width * s.height ∧
      s.op.srcOff.toNat + s.op.len.toNat ≤ s.params.srcCap ∧
      s.op.idxOff.toNat + s.op.len.toNat ≤ s.params.idxCap ∧
      s.byteCount.toNat + s.stride * s.height ≤ s.params.bmpCap ∧
      (∀ i, i < s.op.len.toNat → s.src.get? (s.op.srcOff.toNat + i) = some (x i)) ∧
      0 < s.op.len.toNat :=
  ⟨{ withLayout 4 2 1 2 1 2 State.reset with
      src := cellsAt 0 [0x11, 0x11],
      op := { State.reset.op with cfgWidth := 2, cfgHeight := 1, len := 2, idxOff := 4094 } },
    fun _ => 0x11, vectors_legal,
    ⟨fun h => (nomatch h), fun _ => ⟨.four, by decide, by decide, by decide, rfl, rfl⟩⟩, rfl, by decide,
    rfl, by decide, by decide, by decide, by decide, by decide, by decide, by decide⟩

/-- BMP is filled to its last byte by the three cells. -/
theorem witness_AtlasBeginOpensTheAtlas :
    ∃ s : State, s.status.atlasActive = false ∧ s.status.layoutValid = true ∧
      s.layout.layoutBd.toNat ∈ [4, 8] ∧
      s.op.rangeStart.toNat ≤ s.op.rangeEnd.toNat ∧ s.op.rangeEnd.toNat ≤ 127 ∧
      (∃ c, c < 128 ∧ s.op.rset c = true) ∧
      (∀ c, c < 128 → s.op.rset c = true → s.op.rangeStart.toNat ≤ c ∧ c ≤ s.op.rangeEnd.toNat) ∧
      s.width ≠ 0 ∧ s.height ≠ 0 ∧
      s.byteCount.toNat + s.stride * s.height * (s.op.rangeEnd.toNat - s.op.rangeStart.toNat + 1) ≤
        s.params.bmpCap ∧
      s.padw * s.height * (s.op.rangeEnd.toNat - s.op.rangeStart.toNat + 1) ≤ s.params.atlasCap :=
  ⟨{ setupA with byteCount := 4084 }, rfl, rfl, by decide, by decide, by decide, ⟨67, by decide, by decide⟩,
    by decide, by decide, by decide, by decide, by decide⟩

/-- A state for each fault of ATLAS_BEGIN, and of the checks before it that pass. -/
theorem witness_AtlasBeginFaultPriority :
    openA.status.atlasActive = true ∧
    (State.reset.status.atlasActive = false ∧ State.reset.status.layoutValid = false) ∧
    (∃ s : State, s.status.atlasActive = false ∧ s.status.layoutValid = true ∧
      s.layout.layoutBd.toNat ∉ [4, 8]) ∧
    (∃ s : State, s.status.atlasActive = false ∧ s.status.layoutValid = true ∧
      s.layout.layoutBd.toNat ∈ [4, 8] ∧
      ¬(s.op.rangeStart.toNat ≤ s.op.rangeEnd.toNat ∧ s.op.rangeEnd.toNat ≤ 127)) ∧
    (∃ s : State, s.status.atlasActive = false ∧ s.status.layoutValid = true ∧
      s.layout.layoutBd.toNat ∈ [4, 8] ∧
      (s.op.rangeStart.toNat ≤ s.op.rangeEnd.toNat ∧ s.op.rangeEnd.toNat ≤ 127) ∧
      ∀ c, c < 128 → s.op.rset c = false) ∧
    (∃ s : State, s.status.atlasActive = false ∧ s.status.layoutValid = true ∧
      s.layout.layoutBd.toNat ∈ [4, 8] ∧
      (s.op.rangeStart.toNat ≤ s.op.rangeEnd.toNat ∧ s.op.rangeEnd.toNat ≤ 127) ∧
      ∃ c, c < 128 ∧ s.op.rset c = true ∧ ¬(s.op.rangeStart.toNat ≤ c ∧ c ≤ s.op.rangeEnd.toNat)) :=
  ⟨rfl, ⟨rfl, rfl⟩, ⟨withLayout 1 3 2 8 1 0 setupA, rfl, rfl, by decide⟩,
    ⟨{ setupA with op := { setupA.op with rangeEnd := 128 } }, rfl, rfl, by decide, by decide⟩,
    ⟨{ setupA with op := { setupA.op with rset2 := 0 } }, rfl, rfl, by decide, by decide, by decide⟩,
    ⟨{ setupA with op := { setupA.op with rset2 := 0xB } }, rfl, rfl, by decide, by decide, 64,
      by decide, by decide, by decide⟩⟩

/-- The same for its last two checks: geometry, and the two buffers. -/
theorem witness_AtlasBeginFaultPriority_last :
    ∀ s ∈ [{ setupA with op := { setupA.op with cfgHeight := 0 } },
        { setupA with layout := { setupA.layout with layoutWidth := 0 } },
        { setupA with byteCount := 4085 }, { setupA with op := { setupA.op with cfgHeight := 400 } }],
      s.status.atlasActive = false ∧ s.status.layoutValid = true ∧ s.layout.layoutBd.toNat ∈ [4, 8] ∧
      (s.op.rangeStart.toNat ≤ s.op.rangeEnd.toNat ∧ s.op.rangeEnd.toNat ≤ 127) ∧
      (∃ c, c < 128 ∧ s.op.rset c = true) ∧
      (∀ c, c < 128 → s.op.rset c = true → s.op.rangeStart.toNat ≤ c ∧ c ≤ s.op.rangeEnd.toNat) ∧
      ((s.width = 0 ∨ s.height = 0) ∨
        (s.width ≠ 0 ∧ s.height ≠ 0) ∧
          (s.params.bmpCap < s.byteCount.toNat +
              s.stride * s.height * (s.op.rangeEnd.toNat - s.op.rangeStart.toNat + 1) ∨
            s.params.atlasCap <
              s.padw * s.height * (s.op.rangeEnd.toNat - s.op.rangeStart.toNat + 1))) := by
  intro s hs
  simp only [List.mem_cons, List.not_mem_nil, or_false] at hs
  obtain rfl | rfl | rfl | rfl := hs <;>
    exact ⟨rfl, rfl, by decide, by decide, ⟨65, by decide, by decide⟩, by decide, by decide⟩

/-- The last code of the range, rendered, with its sample at the last byte of SRC. -/
theorem witness_RenderedCellIsPackedAndComposited :
    ∃ (s : State) (x : Nat → Byte), Inv s ∧ s.status.atlasActive = true ∧
      s.nextCode.toNat ≤ s.op.rangeEnd.toNat ∧ s.op.rset s.nextCode.toNat = true ∧
      s.op.srcOff.toNat + s.width * s.height ≤ s.params.srcCap ∧
      ∀ i, i < s.width * s.height → s.src.get? (s.op.srcOff.toNat + i) = some (x i) :=
  ⟨handed true 0x31 [] (emitted 0), fun _ => 0x7F, inv_handed emitted_inv_zero _ _ _, rfl, by decide, by decide,
    by decide, by decide⟩

theorem witness_MissingCellIsAllZero :
    ∃ s : State, Inv s ∧ s.status.atlasActive = true ∧ s.nextCode.toNat ≤ s.op.rangeEnd.toNat ∧
      s.op.rset s.nextCode.toNat = false :=
  ⟨handed true 0x31 [] (emitted 1), inv_handed emitted_inv_one _ _ _, rfl, by decide, by decide⟩

theorem witness_CellAndAtlasEndFaults :
    State.reset.status.atlasActive = false ∧
    (∃ s : State, s.status.atlasActive = true ∧ s.op.rangeEnd.toNat < s.nextCode.toNat) ∧
    (∃ s : State, s.status.atlasActive = true ∧ s.nextCode.toNat ≤ s.op.rangeEnd.toNat ∧
      s.op.rset s.nextCode.toNat = true ∧
      s.params.srcCap < s.op.srcOff.toNat + s.width * s.height) ∧
    (∃ s : State, s.status.atlasActive = true ∧ s.nextCode.toNat ≤ s.op.rangeEnd.toNat ∧
      s.op.rset s.nextCode.toNat = true ∧
      s.op.srcOff.toNat + s.width * s.height ≤ s.params.srcCap ∧ s.layout.layoutBd.toNat ∉ [4, 8]) ∧
    (∃ s : State, s.status.atlasActive = true ∧ s.nextCode.toNat ≠ s.op.rangeEnd.toNat + 1) :=
  ⟨rfl, ⟨handed true 0x31 [] (emitted 2), rfl, by decide⟩,
    ⟨{ handed true 0x31 [] (emitted 0) with op := { (emitted 0).op with srcOff := 4 } }, rfl,
      by decide, by decide, by decide⟩,
    ⟨{ emitted 0 with layout := { (emitted 0).layout with layoutBd := 1 } }, rfl, by decide, by decide,
      by decide, by decide⟩,
    ⟨handed true 0x32 [] (emitted 1), rfl, by decide⟩⟩

/-- The last code of the range, with a glyph one byte past SRC. -/
theorem witness_CellsNeverLeaveTheirBuffers_overflow :
    ∃ s t : State, Inv s ∧ exec .cell s = .next t ∧ s.status.err = false ∧ t.status.errCode = 0x08 :=
  ⟨{ emitted 0 with op := { (emitted 0).op with srcOff := 4 } }, _,
    inv_of_openChecks tiny_legal ⟨by decide, by decide, by decide, by decide, by decide, by decide,
      by decide, by decide, by decide, by decide⟩, rfl, rfl, rfl⟩

theorem witness_CellsNeverLeaveTheirBuffers :
    (∃ (s t : State) (a b : Nat), Inv s ∧ exec .cell s = .next t ∧ t.bmp.get? a ≠ s.bmp.get? a ∧
      t.atlas.get? b ≠ s.atlas.get? b) ∧
    ∃ s : State, Inv s ∧ s.status.atlasActive = true ∧ s.nextCode.toNat ≤ s.op.rangeEnd.toNat ∧
      0 < s.height ∧ 0 < s.padw :=
  ⟨⟨emitted 0, _, 0, 0, emitted_inv_zero, rfl, by decide, by decide⟩,
    handed true 0x31 [] (emitted 1), inv_handed emitted_inv_one _ _ _, rfl, by decide, by decide, by decide⟩

theorem witness_AtlasEndClosesACompleteAtlas :
    ∃ s : State, s.status.atlasActive = true ∧ s.nextCode.toNat = s.op.rangeEnd.toNat + 1 ∧ Inv s :=
  ⟨handed true 0x32 [] (emitted 2), rfl, by decide, inv_handed emitted_inv_two _ _ _⟩

theorem witness_AnAtlasRunEmitsEveryCellInOrder :
    ∃ (s : State) (k : Nat), Inv s ∧ s.status.atlasActive = true ∧ s.nextCode = s.op.rangeStart ∧
      s.op.srcOff.toNat + s.width * s.height ≤ s.params.srcCap ∧
      k ≤ s.op.rangeEnd.toNat - s.op.rangeStart.toNat + 1 ∧
      (∃ c j, c < k ∧ s.op.rset (s.op.rangeStart.toNat + c) = false ∧ j < s.stride * s.height) ∧
      (∃ x : Nat → Byte,
        (∀ i, i < s.width * s.height → s.src.get? (s.op.srcOff.toNat + i) = some (x i)) ∧
        ∃ c, c < k ∧ s.op.rset (s.op.rangeStart.toNat + c) = true ∧ 0 < s.width ∧ 0 < s.height ∧
          0 < s.stride) ∧
      k = s.op.rangeEnd.toNat - s.op.rangeStart.toNat + 1 :=
  ⟨handed true 0x31 [] (emitted 0), 2, inv_handed emitted_inv_zero _ _ _, rfl, by decide, by decide, by decide,
    ⟨1, 0, by decide, by decide, by decide⟩,
    ⟨fun _ => 0x7F, by decide, 0, by decide, by decide, by decide, by decide, by decide⟩, by decide⟩

/-- The full range 0 .. 127, the codes 0 and 127 in the set. -/
theorem witness_MetricsBuildsTheTable :
    ∃ s : State, s.status.layoutValid = true ∧ s.status.fmtValid = true ∧
      s.op.rangeStart.toNat ≤ s.op.rangeEnd.toNat ∧ s.op.rangeEnd.toNat ≤ 127 ∧
      (∃ c, c < 128 ∧ s.op.rset c = true) ∧
      ∀ c, c < 128 → s.op.rset c = true → s.op.rangeStart.toNat ≤ c ∧ c ≤ s.op.rangeEnd.toNat :=
  ⟨{ setupA with
      op := { setupA.op with
        rangeStart := 0, rangeEnd := 127, rset0 := 1, rset2 := 0, rset3 := 0x80000000 } },
    rfl, rfl, by decide, by decide, ⟨127, by decide, by decide⟩, by decide⟩

theorem witness_MetricsFaultPriority :
    State.reset.status.layoutValid = false ∧
    (∃ s : State, s.status.layoutValid = true ∧ s.status.fmtValid = false) ∧
    (∃ s : State, s.status.layoutValid = true ∧ s.status.fmtValid = true ∧
      ¬(s.op.rangeStart.toNat ≤ s.op.rangeEnd.toNat ∧ s.op.rangeEnd.toNat ≤ 127)) ∧
    (∃ s : State, s.status.layoutValid = true ∧ s.status.fmtValid = true ∧
      (s.op.rangeStart.toNat ≤ s.op.rangeEnd.toNat ∧ s.op.rangeEnd.toNat ≤ 127) ∧
      ∀ c, c < 128 → s.op.rset c = false) ∧
    (∃ s : State, s.status.layoutValid = true ∧ s.status.fmtValid = true ∧
      (s.op.rangeStart.toNat ≤ s.op.rangeEnd.toNat ∧ s.op.rangeEnd.toNat ≤ 127) ∧
      ∃ c, c < 128 ∧ s.op.rset c = true ∧ ¬(s.op.rangeStart.toNat ≤ c ∧ c ≤ s.op.rangeEnd.toNat)) :=
  ⟨rfl, ⟨withLayout 1 3 2 8 1 0 setupA, rfl, rfl⟩,
    ⟨{ setupA with op := { setupA.op with rangeStart := 68 } }, rfl, rfl, by decide⟩,
    ⟨{ setupA with op := { setupA.op with rset2 := 0 } }, rfl, rfl, by decide, by decide⟩,
    ⟨{ setupA with op := { setupA.op with rset2 := 0x12 } }, rfl, rfl, by decide, 68, by decide,
      by decide, by decide⟩⟩

theorem witness_NopOnlyCompletes :
    ((0#32).toNat % 256 = 0 ∧ (0xFFFFFF00#32).toNat % 256 = 0 ∧ 0xFFFFFF00#32 ≠ 0#32) ∧
    (latched 0 errored).status.err = true ∧ (latched 0 errored).cmdLatch = 0 := by decide

theorem witness_ClearEndsTheRun : (latched 1 errored).cmdLatch = 0x00000001#32 := rfl

theorem witness_OtherAccessesAreHeldWhileBusy :
    ∀ a ∈ [Access.read .w32 0x004, .read .w32 0x010, .read .w8 0x004, .write .w32 0x000 0x1,
        .read .w32 0x7FFFFC],
      ∃ (s : State) (rest : List HostEvent), s.status.busy = true ∧ s.inputs = .access a :: rest ∧
        InAperture s.params (.access a) := by
  intro a ha
  refine ⟨{ latched 0x410 State.reset with inputs := [.access a] }, [], rfl, rfl, ?_⟩
  simp only [List.mem_cons, List.not_mem_nil, or_false] at ha
  obtain rfl | rfl | rfl | rfl | rfl := ha <;> exact ⟨by decide, by decide⟩

theorem witness_BusErrorsChangeNothing :
    ∃ (s t : State) (a : Access) (rest : List HostEvent), s.status.busy = false ∧
      s.inputs = .access a :: rest ∧ step s = .next t ∧ t.responses = s.responses ++ [.busError] :=
  ⟨{ State.reset with inputs := [.access (.write .w8 0x101000 1)] }, _, _, _, rfl, rfl, rfl, rfl⟩

theorem witness_RefusedAccesses : ∃ s : State, s.params.Legal := ⟨State.reset, vectors_legal⟩

/-- With no open atlas, and in one a register that it does not lock. -/
theorem witness_RegistersReadBackTheirStoredBits :
    State.reset.status.atlasActive = false ∧ openA.status.atlasActive = true ∧
    ∀ off ∈ [0x00C, 0x014, 0x01C, 0x034, 0x038, 0x03C],
      off ∉ [0x018, 0x020, 0x024, 0x028, 0x02C, 0x030] := by decide

theorem witness_LockedRegistersIgnoreWrites : openA.status.atlasActive = true := rfl

theorem witness_ReadOnlyRegistersIgnoreWrites :
    ∀ off ∈ [0x004, 0x008, 0x040, 0x05C, 0x060, 0xFFC], off < 0x1000 ∧ off % 4 = 0 ∧
      (off ∈ [0x004, 0x008] ∨ 0x040 ≤ off) := by decide

theorem witness_CmdWritesLatchAndPendWritesClear :
    ∀ e ∈ [HostEvent.access (.write .w32 0 0x101), .access (.read .w32 0), .access (.write .w32 0x010 1)],
      ({ State.reset with inputs := [e] } : State).status.busy = false ∧
      State.reset.params.blockBase = 0 := fun _ _ => ⟨rfl, rfl⟩

/-- The last word of SRC and of IDX. -/
theorem witness_HostByteOrderIsLittleEndian :
    ∀ b ∈ [Buffer.src, .idx], (b = .src ∨ b = .idx) ∧ State.reset.params.Legal ∧ 4092 % 4 = 0 ∧
      4092 + 4 ≤ capacity State.reset.params b := by
  intro b hb
  simp only [List.mem_cons, List.not_mem_nil, or_false] at hb
  exact ⟨hb, vectors_legal, rfl, by obtain rfl | rfl := hb <;> decide⟩

/-- Written words: the last of each buffer of the tiny machine, and of MET. -/
def writtenEverywhere : State :=
  let bytes := cellsAt 0 [0x01, 0x02, 0x03, 0x04]
  { State.resetOf tiny with
    src := bytes, idx := bytes, bmp := bytes, atlas := bytes, met := cellsAt 144 [0x01, 0x02, 0x03, 0x04] }

/-- The clauses on reads, at the last word of each buffer. -/
theorem witness_HostByteOrderIsLittleEndian_reads :
    writtenEverywhere.params.Legal ∧
    ∀ p ∈ [(writtenEverywhere.met, 148), (writtenEverywhere.src, writtenEverywhere.params.srcCap),
        (writtenEverywhere.idx, writtenEverywhere.params.idxCap),
        (writtenEverywhere.bmp, writtenEverywhere.params.bmpCap),
        (writtenEverywhere.atlas, writtenEverywhere.params.atlasCap)],
      ∀ n ∈ [1, 2, 4], (p.2 - 4) % n = 0 ∧ p.2 - 4 + n ≤ p.2 ∧
        ∀ i, i < n → p.1.get? (p.2 - 4 + i) = some ((0x04030201#32).extractLsb' (8 * i) 8) :=
  ⟨tiny_legal, by decide⟩

theorem witness_NarrowWritesStoreTheirBytesOnly :
    ∀ b ∈ [Buffer.src, .idx], (b = .src ∨ b = .idx) ∧ State.reset.params.Legal ∧
      4095 + 1 ≤ capacity State.reset.params b ∧
      (4094 % 2 = 0 ∧ 4094 + 2 ≤ capacity State.reset.params b) := by
  intro b hb
  simp only [List.mem_cons, List.not_mem_nil, or_false] at hb
  exact ⟨hb, vectors_legal, by obtain rfl | rfl := hb <;> decide,
    by obtain rfl | rfl := hb <;> decide⟩

theorem witness_HostReadsTheMetricsFields :
    127 < 128 ∧
    ∃ t, setupA.status.err = false ∧ exec .metrics setupA = .next t ∧ t.status.err = false :=
  ⟨by decide, _, rfl, rfl, rfl⟩

theorem witness_ResetReturnsToIdle :
    (∃ (s : State) (rest : List HostEvent), s.inputs = .reset :: rest ∧ s.status.busy = true) ∧
    (State.reset.inputs = [] ∧ State.reset.status.busy = false) :=
  ⟨⟨{ latched 0x410 openA with inputs := [.reset, .idle] }, _, rfl, rfl⟩, rfl, rfl⟩

end Sys2Proof.Tests
end

section
/-! Writes and reads of the registers by name, and the registers that an open atlas locks
(10_state.md R22, R34). -/

namespace Sys2Proof.Machine

/-! ### The register window, register by register -/

@[simp] theorem regAt_regOffset (r : Reg) : regAt (regOffset r) = some r :=
  regAt_eq_some.2 rfl

theorem regOffset_lt_window (r : Reg) : regOffset r < 0x1000 := by
  cases r <;> decide

theorem regOffset_mod_four (r : Reg) : regOffset r % 4 = 0 := by
  cases r <;> rfl

/-- A 32-bit read at a register's offset returns the register and changes nothing (R22, R52). -/
theorem hostRead_regOffset (r : Reg) (s : State) :
    hostRead .w32 (regOffset r) s = (.data (readReg s r), s) := by
  simp [hostRead_register (regOffset_lt_window r), regOffset_mod_four r]

/-- A 32-bit write at a register's offset is performed as the register's write (R22, R52). -/
theorem hostWrite_regOffset (r : Reg) (v : Word) (s : State) :
    hostWrite .w32 (regOffset r) v s = (.done, writeReg v s r) := by
  simp [hostWrite_register (regOffset_lt_window r) (regOffset_mod_four r)]

/-! ### The locked registers -/

/-- The registers that an open atlas locks (R34). -/
def lockedRegs : List Reg := [.cfgHeight, .range, .rset0, .rset1, .rset2, .rset3]

/-- An open atlas drops an update of the locked operand registers. -/
theorem setLockedOp_of_atlasActive {s : State} (h : s.status.atlasActive = true) (o : OperandRegs) :
    setLockedOp s o = s :=
  if_pos h

/-- In an open atlas a write to a locked register changes nothing (R34). -/
theorem writeReg_of_mem_lockedRegs {s : State} (h : s.status.atlasActive = true) (v : Word) {r : Reg}
    (hr : r ∈ lockedRegs) : writeReg v s r = s := by
  simp only [lockedRegs, List.mem_cons, List.not_mem_nil, or_false] at hr
  obtain rfl | rfl | rfl | rfl | rfl | rfl := hr <;> exact setLockedOp_of_atlasActive h _

/-- Settles O51: each of the offsets is that of a locked register, whose write an open atlas drops. -/
theorem lockedRegistersIgnoreWrites : Obligations.LockedRegistersIgnoreWrites := by
  intro s v hactive
  refine ⟨fun off hoff => ?_, hostRead_regOffset .cfgHeight s, hostRead_regOffset .range s,
    hostRead_regOffset .rset0 s, hostRead_regOffset .rset1 s, hostRead_regOffset .rset2 s,
    hostRead_regOffset .rset3 s⟩
  obtain ⟨r, hr, rfl⟩ : ∃ r ∈ lockedRegs, regOffset r = off := List.mem_map.1 hoff
  rw [hostWrite_regOffset, writeReg_of_mem_lockedRegs hactive v hr]

end Sys2Proof.Machine
end

section
/-! Which accesses at an aperture offset the block performs and which get a bus error (20_memory.md R51,
R52, R53, R56). -/

namespace Sys2Proof.Machine

/-- The bytes of an access, 0 at a size the block does not know (R53). -/
def accessBytes (w : Width) : Nat := (widthBytes w).getD 0

/-- The access lies in the register window and is in order there (R52). -/
def RegAccess (w : Width) (off : Nat) : Prop :=
  ∃ r, placeAt off = .reg r ∧ regAccessOk w r = true

/-- The access lies in the window of `b` and is in order there, but for the direction (R53). -/
def BufferAccess (P : Params) (w : Width) (off : Nat) (b : Buffer) : Prop :=
  ∃ k n, placeAt off = .buffer b k ∧ widthBytes w = some n ∧ bufferAccessOk P b k n = true

/-- The bytes [off, off + n) of the aperture lie in the buffer `b` (R51, R53). -/
def WithinBuffer (P : Params) (off n : Nat) (b : Buffer) : Prop :=
  bufferBase b ≤ off ∧ off + n ≤ bufferBase b + capacity P b

/-! ### Which accesses are performed, by the place of their offset -/

/-- A read is performed exactly where the register window or a buffer takes the access. -/
theorem hostRead_ne_busError_iff (w : Width) (off : Nat) (s : State) :
    (hostRead w off s).1 ≠ .busError ↔ RegAccess w off ∨ ∃ b, BufferAccess s.params w off b := by
  unfold hostRead RegAccess BufferAccess
  cases placeAt off with
  | unmapped => simp
  | reg r => cases hok : regAccessOk w r <;> simp [hok]
  | buffer b k =>
    cases widthBytes w with
    | none => simp
    | some n => cases hok : bufferAccessOk s.params b k n <;> simp [hok, readBuffer]

/-- A write is performed exactly where the register window or a buffer that the host may write takes
the access. -/
theorem hostWrite_ne_busError_iff (w : Width) (off : Nat) (v : Word) (s : State) :
    (hostWrite w off v s).1 ≠ .busError ↔
      RegAccess w off ∨ ∃ b, hostWritable b = true ∧ BufferAccess s.params w off b := by
  unfold hostWrite RegAccess BufferAccess
  cases placeAt off with
  | unmapped => simp
  | reg r => cases hok : regAccessOk w r <;> simp [hok]
  | buffer b k =>
    cases widthBytes w with
    | none => simp
    | some n =>
      cases hw : hostWritable b <;> cases hok : bufferAccessOk s.params b k n <;> simp [hw, hok]

/-! ### The places as ranges of offsets -/

/-- The register window is the offsets below 0x1000 (R51). -/
theorem placeAt_eq_reg_iff {off r : Nat} : placeAt off = .reg r ↔ off < 0x1000 ∧ off = r := by
  unfold placeAt
  split_ifs with h <;> simp [h]

/-- The byte k of a buffer's window is at its base plus k (R51). -/
theorem eq_bufferBase_add_of_placeAt {off k : Nat} {b : Buffer} (h : placeAt off = .buffer b k) :
    off = bufferBase b + k := by
  unfold placeAt at h
  split_ifs at h <;> cases h <;> simp only [bufferBase] <;> omega

/-- The bases are aligned for every size of access. -/
theorem widthBytes_dvd_bufferBase {w : Width} {n : Nat} (hw : widthBytes w = some n) (b : Buffer) :
    n ∣ bufferBase b := by
  cases w <;> cases hw <;> cases b <;> decide

theorem widthBytes_pos {w : Width} {n : Nat} (hw : widthBytes w = some n) : 0 < n := by
  cases w <;> cases hw <;> decide

/-- The register window takes the 32-bit accesses at a multiple of 4 (R52). -/
theorem regAccess_iff (w : Width) (off : Nat) :
    RegAccess w off ↔ off < 0x1000 ∧ w = .w32 ∧ off % 4 = 0 := by
  simp [RegAccess, regAccessOk, placeAt_eq_reg_iff, and_assoc]

/-- A buffer takes the aligned accesses of a known size that lie wholly in it (R53). -/
theorem bufferAccess_iff {P : Params} (hP : P.Legal) (w : Width) (off : Nat) (b : Buffer) :
    BufferAccess P w off b ↔
      accessBytes w ≠ 0 ∧ off % accessBytes w = 0 ∧ WithinBuffer P off (accessBytes w) b := by
  unfold BufferAccess accessBytes WithinBuffer
  cases hw : widthBytes w with
  | none => simp
  | some n =>
    have hn := widthBytes_pos hw
    have hmod (k : Nat) : (bufferBase b + k) % n = k % n := by
      rw [Nat.add_mod, Nat.mod_eq_zero_of_dvd (widthBytes_dvd_bufferBase hw b), zero_add, Nat.mod_mod]
    simp only [Option.some.injEq, exists_eq_left', exists_and_left, bufferAccessOk, inBounds,
      Bool.and_eq_true, decide_eq_true_eq, Option.getD_some]
    constructor
    · rintro ⟨k, hplace, halign, hin⟩
      obtain rfl := eq_bufferBase_add_of_placeAt hplace
      exact ⟨hn.ne', (hmod k).trans halign, by omega, by omega⟩
    · rintro ⟨-, halign, hbase, hin⟩
      obtain ⟨k, rfl⟩ := Nat.exists_eq_add_of_le hbase
      exact ⟨k, placeAt_bufferBase hP (by omega), (hmod k).symm.trans halign, by omega⟩

/-! ### The buffers, one by one -/

theorem exists_buffer_iff (p : Buffer → Prop) :
    (∃ b, p b) ↔ p .met ∨ p .src ∨ p .idx ∨ p .bmp ∨ p .atlas := by
  constructor
  · rintro ⟨b, h⟩
    cases b <;> simp [h]
  · rintro (h | h | h | h | h) <;> exact ⟨_, h⟩

/-- The host writes SRC and IDX only (R56). -/
theorem exists_hostWritable_iff (p : Buffer → Prop) :
    (∃ b, hostWritable b = true ∧ p b) ↔ p .src ∨ p .idx := by
  simp [exists_buffer_iff, hostWritable]

/-- Settles O48: an access is performed exactly where its place takes it, and the places that take it
are the register window and the buffers that hold all of its bytes. -/
theorem refusedAccesses : Obligations.RefusedAccesses := by
  intro s w off v n within readable writable hP
  have hn : n = accessBytes w := by cases w <;> rfl
  constructor
  · rw [hostRead_ne_busError_iff, regAccess_iff]
    simp only [bufferAccess_iff hP, exists_and_left, exists_buffer_iff, ← hn]
    exact Iff.rfl
  · rw [hostWrite_ne_busError_iff, regAccess_iff]
    simp only [bufferAccess_iff hP, exists_and_left, and_left_comm (a := hostWritable _ = true),
      exists_hostWritable_iff, ← hn]
    exact Iff.rfl

end Sys2Proof.Machine
end

section
/-! LAYOUT (40_layout.md R90): the depths it takes, its word, its two faults and its completion. -/

namespace Sys2Proof.Machine

/-! ### The depths -/

/-- The numbers that are a depth (30_encoding.md R72). -/
theorem mem_depths_iff {d : Nat} : d ∈ [1, 4, 8] ↔ ∃ depth : Depth, d = depth.bits := by
  constructor
  · intro h
    simp only [List.mem_cons, List.not_mem_nil, or_false] at h
    obtain rfl | rfl | rfl := h
    exacts [⟨.one, rfl⟩, ⟨.four, rfl⟩, ⟨.eight, rfl⟩]
  · rintro ⟨depth, rfl⟩
    cases depth <;> decide

theorem ofNat?_bits (depth : Depth) : Depth.ofNat? depth.bits = some depth :=
  Depth.ofNat?_eq_some.2 rfl

theorem ofNat?_eq_none_of_notMem {d : Nat} (h : d ∉ [1, 4, 8]) : Depth.ofNat? d = none :=
  Depth.ofNat?_eq_none.2 (by simpa using h)

/-! ### The word -/

/-- A word whose RSV is 0 and whose OP is 0x10 is LAYOUT at its D, whatever that is (R75). -/
theorem decode_of_opField_layout {w : Word} (hrsv : rsvField w = 0) (hop : opField w = 0x10) :
    decode w = .ok (.layout (dField w)) := by
  simp [decode, decodeOpcode, hrsv, hop]

theorem decode_layoutWord {d : Nat} (hd : d < 16) :
    decode (BitVec.ofNat 32 (0x10 + 256 * d)) = .ok (.layout d) := by
  have hw : (BitVec.ofNat 32 (0x10 + 256 * d)).toNat = 0x10 + 256 * d := by
    rw [BitVec.toNat_ofNat]; omega
  have hfield : dField (BitVec.ofNat 32 (0x10 + 256 * d)) = d := by
    rw [dField_eq, hw]; omega
  rw [decode_of_opField_layout (by rw [rsvField_eq, hw]; omega) (by rw [opField_eq, hw]; omega),
    hfield]

/-! ### The faults and the completion -/

/-- Fault entry is the record that the statements spell out (60_exceptions.md R165). -/
theorem faultEntry_eq_faulted (c : FaultCode) (s : State) :
    faultEntry c s = faulted (errCodeOf c) s := rfl

theorem exec_layout_of_atlasActive {s : State} (d : Nat) (h : s.status.atlasActive = true) :
    exec (.layout d) s = .next (faultEntry .sequenceError s) :=
  if_pos h

theorem exec_layout_of_notMem {s : State} {d : Nat} (h : s.status.atlasActive = false)
    (hd : d ∉ [1, 4, 8]) : exec (.layout d) s = .next (faultEntry .unsupportedBitDepth s) := by
  simp [exec, execLayout, h, ofNat?_eq_none_of_notMem hd]

theorem exec_layout_bits {s : State} (depth : Depth) (h : s.status.atlasActive = false) :
    exec (.layout depth.bits) s = .next (complete (setLayout depth s)) := by
  simp [exec, execLayout, h, ofNat?_bits]

/-- The layout registers of a depth by its number of bits, in the formulas of R90. -/
theorem layoutRegsOf_eq (P : Params) (w : Half) (depth : Depth) :
    layoutRegsOf P w depth = {
      padw := BitVec.ofNat 32 ((w.toNat * depth.bits + 7) / 8 * 8 / depth.bits)
      stride := BitVec.ofNat 32
        ((w.toNat * depth.bits + 7) / 8 * 8 / depth.bits * depth.bits / 8)
      fmt := if depth.bits = 4 then P.fmtL4 else if depth.bits = 8 then P.fmtL8 else 0
      layoutBd := BitVec.ofNat 4 depth.bits
      layoutWidth := w } := by
  have hfmt : formatId P depth =
      if depth.bits = 4 then P.fmtL4 else if depth.bits = 8 then P.fmtL8 else 0 := by
    cases depth <;> rfl
  rw [layoutRegsOf, hfmt]
  rfl

/-- FMT_VALID: d ∈ {4, 8}. -/
theorem ne_one_eq_decide (depth : Depth) :
    (depth != .one) = decide (depth.bits = 4 ∨ depth.bits = 8) := by
  cases depth <;> rfl

/-- Settles O18: LAYOUT checks the atlas, then its depth, and at a depth sets the registers of R90. -/
theorem layoutComputesTheGeometry : Obligations.LayoutComputesTheGeometry := by
  intro d s
  refine ⟨decode_layoutWord, fun hactive => ?_, fun hactive hd => ?_, fun hactive hd => ?_⟩
  · rw [exec_layout_of_atlasActive d hactive, faultEntry_eq_faulted]
    rfl
  · rw [exec_layout_of_notMem hactive hd, faultEntry_eq_faulted]
    rfl
  · obtain ⟨depth, rfl⟩ := mem_depths_iff.1 hd
    rw [exec_layout_bits depth hactive, ← ne_one_eq_decide, ← layoutRegsOf_eq]
    rfl

end Sys2Proof.Machine
end

section
/-! The quantizer's formulas (41_quantize_pack.md R100), and the packer against its conceptual inverse
(R105, R106). -/

namespace Sys2Proof.Machine

/-! ### The quantizer -/

/-- The 1-bit quantizer over the naturals: the top bit of the sample. -/
theorem toNat_quantize_one (x : Byte) : (quantize .one x).toNat = x.toNat / 128 := by
  rw [quantize, BitVec.toNat_ushiftRight, Nat.shiftRight_eq_div_pow]

/-- Settles O21: the identity by definition, the other two over the naturals; the top bit of a sample
is its comparison with 128. -/
theorem quantizerFormulas : Obligations.QuantizerFormulas := by
  intro x
  have hx := x.isLt
  refine ⟨rfl, toNat_quantize_four x, ?_⟩
  rw [toNat_quantize_one]
  split <;> omega

/-! ### The two nibbles of a packed pair -/

/-- The high nibble of a pair is its first index (R108). -/
theorem packPair_high {a b : Byte} (ha : a.toNat ≤ 15) (hb : b.toNat ≤ 15) :
    packPair a b >>> 4 = a := by
  refine BitVec.eq_of_toNat_eq ?_
  rw [BitVec.toNat_ushiftRight, toNat_packPair ha hb, Nat.shiftRight_eq_div_pow]
  omega

/-- The low nibble of a pair is its second index (R108). -/
theorem packPair_low {a b : Byte} (ha : a.toNat ≤ 15) (hb : b.toNat ≤ 15) :
    packPair a b &&& 0x0F = b := by
  refine BitVec.eq_of_toNat_eq ?_
  have hmask : (0x0F : Byte).toNat = 2 ^ 4 - 1 := rfl
  rw [BitVec.toNat_and, toNat_packPair ha hb, hmask, Nat.and_two_pow_sub_one_eq_mod]
  omega

/-! ### Unpacking what was packed -/

theorem unpackNibbles_cons (v : Byte) (rest : List Byte) :
    unpackNibbles (v :: rest) = v >>> 4 :: (v &&& 0x0F) :: unpackNibbles rest := rfl

/-- Unpacking a pair of indices, and then the rest, gives back the two and unpacks the rest. -/
theorem unpackNibbles_packPair_cons {a b : Byte} (ha : a.toNat ≤ 15) (hb : b.toNat ≤ 15)
    (rest : List Byte) : unpackNibbles (packPair a b :: rest) = a :: b :: unpackNibbles rest := by
  rw [unpackNibbles_cons, packPair_high ha hb, packPair_low ha hb]

/-- Unpacking the packed indices gives them back, and the one 0 that an odd number of them was padded
with. -/
theorem unpackNibbles_packNibbles {a : List Byte} (ha : ∀ b ∈ a, b.toNat ≤ 15) :
    unpackNibbles (packNibbles a) = a ++ List.replicate (a.length % 2) 0 := by
  induction a using packNibbles.induct with
  | case1 => rfl
  | case2 x =>
    rw [packNibbles, unpackNibbles_packPair_cons (ha x (by simp)) (by decide)]
    rfl
  | case3 x y rest ih =>
    rw [packNibbles, unpackNibbles_packPair_cons (ha x (by simp)) (ha y (by simp)),
      ih fun b hb => ha b (by simp [hb])]
    have hparity : (x :: y :: rest).length % 2 = rest.length % 2 := Nat.add_mod_right _ 2
    rw [hparity, List.cons_append, List.cons_append]

/-- Settles O25: the length is the one PACK counts, and the two parities are those of the round trip. -/
theorem packerRoundTrips : Obligations.PackerRoundTrips := by
  intro a
  refine ⟨rfl, fun ha => ⟨length_packNibbles a, fun heven => ?_, fun hodd => ?_⟩⟩
  · rw [pack, unpackNibbles_packNibbles ha, heven, List.replicate_zero, List.append_nil]
  · rw [pack, unpackNibbles_packNibbles ha, hodd, List.replicate_one]

end Sys2Proof.Machine
end

section
/-! The control commands NOP and CLEAR (44_control.md R150, R151): their words, what they do, and what an
engine step does with them while an error is recorded. -/

namespace Sys2Proof.Machine

/-! ### The words -/

/-- The D and OP of a word are those of the word of `i` (R71, R74). -/
def FieldsOf (w : Word) (i : Instr) : Prop :=
  dField w = depthOf i ∧ opField w = (opcodeOf i).toNat

theorem fieldsOf_of_fixedCommand {w : Word} {i j : Instr} (h : fixedCommand w j = .ok i)
    (hdepth : depthOf j = 0) (hop : opField w = (opcodeOf j).toNat) : FieldsOf w i := by
  unfold fixedCommand at h
  split at h
  · cases h
  · next hd =>
    cases h
    exact ⟨(not_not.1 hd).trans hdepth.symm, hop⟩

theorem fieldsOf_of_decodeOpcode {w : Word} {i : Instr} (h : decodeOpcode w = .ok i) :
    FieldsOf w i := by
  unfold decodeOpcode at h
  split at h
  case h_3 hop | h_4 hop | h_5 hop => -- the commands with a depth
    cases h
    exact ⟨rfl, hop⟩
  case h_11 => cases h
  all_goals
    next hop => exact fieldsOf_of_fixedCommand h rfl hop

/-- A word that decodes is the command's depth above its opcode, with RSV 0 (R71, R75). -/
theorem toNat_of_decode {w : Word} {i : Instr} (h : decode w = .ok i) :
    w.toNat = 256 * depthOf i + (opcodeOf i).toNat := by
  unfold decode at h
  split_ifs at h with hrsv
  obtain ⟨hd, hop⟩ := fieldsOf_of_decodeOpcode h
  rw [not_not, rsvField_eq] at hrsv
  rw [dField_eq] at hd
  rw [opField_eq] at hop
  omega

/-- A command has one word only. -/
theorem decode_eq_ok_iff_eq {w w' : Word} {i : Instr} (h' : decode w' = .ok i) :
    decode w = .ok i ↔ w = w' := by
  constructor
  · intro h
    exact BitVec.eq_of_toNat_eq ((toNat_of_decode h).trans (toNat_of_decode h').symm)
  · rintro rfl
    exact h'

theorem decode_eq_nop_iff {w : Word} : decode w = .ok .nop ↔ w = 0 :=
  decode_eq_ok_iff_eq (by decide)

theorem decode_eq_clear_iff {w : Word} : decode w = .ok .clear ↔ w = 0x00000001#32 :=
  decode_eq_ok_iff_eq (by decide)

/-- OP 0x00 is NOP's alone (R74). -/
theorem eq_nop_of_opcodeOf_eq_zero {i : Instr} (h : (opcodeOf i).toNat = 0) : i = .nop := by
  cases i with
  | nop => rfl
  | _ => cases h

/-- A word whose OP is 0x00 is NOP's, or it is Illegal. -/
theorem decode_error_of_op_zero {w : Word} (hop : w.toNat % 256 = 0) (hw : w ≠ 0) :
    ∃ e, decode w = .error e := by
  cases h : decode w with
  | error e => exact ⟨e, rfl⟩
  | ok i =>
    have hzero : (opcodeOf i).toNat = 0 := by
      have := toNat_of_decode h
      have := opcodeOf_lt i
      omega
    obtain rfl := eq_nop_of_opcodeOf_eq_zero hzero
    exact absurd (decode_eq_nop_iff.1 h) hw

/-! ### The commands -/

theorem exec_nop (s : State) : exec .nop s = .next (complete s) := rfl

theorem exec_clear (s : State) : exec .clear s = .next (complete (clearRun s)) := rfl

/-- While an error is recorded, the engine drops every word but CLEAR's (60_exceptions.md R166). -/
theorem engineStep_of_err {s : State} (herr : s.status.err = true)
    (hw : s.cmdLatch ≠ 0x00000001#32) : engineStep s = .next (dropCommand s) :=
  if_pos (by simp [dropsWord, herr, hw])

/-- Settles O44: a word of OP 0x00 that is not NOP's decodes to no command, since NOP alone has that
opcode; NOP is one completion; and its word is not CLEAR's, so a recorded error drops it. -/
theorem nopOnlyCompletes : Obligations.NopOnlyCompletes := by
  refine ⟨fun w hop => ⟨decode_eq_nop_iff, decode_error_of_op_zero hop⟩, exec_nop,
    fun s herr hw => engineStep_of_err herr ?_⟩
  rw [hw]
  decide

/-- Settles O45: a command has one word; CLEAR is `clearRun` and a completion; and its word is never
dropped. -/
theorem clearEndsTheRun : Obligations.ClearEndsTheRun :=
  ⟨fun _ => decode_eq_clear_iff, exec_clear,
    fun _ hw => engineStep_of_decode (.inr hw) (decode_eq_clear_iff.2 hw)⟩

end Sys2Proof.Machine
end

section
/-! The sticky error (60_exceptions.md R166). -/

namespace Sys2Proof.Machine

/-- Settles O6: with an error recorded, a word is dropped unless it is CLEAR's, and CLEAR's word is
never dropped and decodes to CLEAR. -/
theorem stickyErrorDropsAllButClear : Obligations.StickyErrorDropsAllButClear := by
  intro s herr
  constructor
  · intro hw
    exact engineStep_of_err herr hw
  · intro hw
    exact engineStep_of_decode (.inr hw) (decode_eq_clear_iff.2 hw)

end Sys2Proof.Machine
end

section
/-! The decoder as the inverse of the encoder (30_encoding.md R71, R74, R75), and the words it answers
with an error (R76). -/

namespace Sys2Proof.Machine

/-! ### Decoding and encoding -/

/-- A command has an encoding exactly when its depth fits the D field (R71). -/
theorem wf_iff_depthOf_lt {i : Instr} : i.wf = true ↔ depthOf i < 16 := by
  cases i <;> simp [Instr.wf, depthOf]

/-- The decoder finds only depths that fit the D field. -/
theorem wf_of_decode {w : Word} {i : Instr} (h : decode w = .ok i) : i.wf = true := by
  unfold decode at h
  split_ifs at h
  obtain ⟨hdepth, -⟩ := fieldsOf_of_decodeOpcode h
  rw [wf_iff_depthOf_lt, ← hdepth, dField_eq]
  omega

theorem encode_of_decode {w : Word} {i : Instr} (h : decode w = .ok i) : encode i = w :=
  BitVec.eq_of_toNat_eq ((encode_toNat (wf_of_decode h)).trans (toNat_of_decode h).symm)

/-- The word of a command has the command's fields, by which each row of R75 finds it. -/
theorem decode_encode {i : Instr} (h : i.wf = true) : decode (encode i) = .ok i := by
  obtain ⟨hop, hd, hrsv⟩ := Laws.EncodedFields.fields_of_encode i h
  cases i <;> simp [decode, decodeOpcode, fixedCommand, hrsv, hop, hd, opcodeOf, depthOf]

theorem decode_eq_ok_iff {w : Word} {i : Instr} :
    decode w = .ok i ↔ i.wf = true ∧ encode i = w := by
  constructor
  · intro h
    exact ⟨wf_of_decode h, encode_of_decode h⟩
  · rintro ⟨hwf, rfl⟩
    exact decode_encode hwf

/-- Settles O1: the decoder answers only commands with an encoding, each from its own word; and it finds
every such command in its word. -/
theorem decodeInvertsEncode : Obligations.DecodeInvertsEncode :=
  fun _ _ => decode_eq_ok_iff

/-- Settles O2: each word is the encoding of its command. -/
theorem opcodeMapWordsDecode : Obligations.OpcodeMapWordsDecode := by
  unfold Obligations.OpcodeMapWordsDecode
  simp only [decode_eq_ok_iff]
  decide

/-! ### The illegal words -/

/-- The opcodes of R74. -/
def listedOpcodes : List Nat := [0x00, 0x01, 0x10, 0x20, 0x21, 0x22, 0x30, 0x31, 0x32, 0x40]

/-- The opcodes that take a depth (R74). -/
def depthOpcodes : List Nat := [0x10, 0x20, 0x21]

theorem fixedCommand_error_iff {w : Word} {i : Instr} :
    (∃ e, fixedCommand w i = .error e) ↔ dField w ≠ 0 := by
  unfold fixedCommand
  split <;> simp_all

theorem decodeOpcode_error_iff {w : Word} :
    (∃ e, decodeOpcode w = .error e) ↔
      opField w ∉ listedOpcodes ∨ (opField w ∉ depthOpcodes ∧ dField w ≠ 0) := by
  unfold decodeOpcode
  split
  case h_3 hop | h_4 hop | h_5 hop => simp [hop, listedOpcodes, depthOpcodes]
  case h_11 => simp_all [listedOpcodes]
  all_goals
    next hop => simp [fixedCommand_error_iff, hop, listedOpcodes, depthOpcodes]

/-- A word is Illegal in the three ways of R76. -/
theorem decode_error_iff {w : Word} :
    (∃ e, decode w = .error e) ↔
      rsvField w ≠ 0 ∨ opField w ∉ listedOpcodes ∨ (opField w ∉ depthOpcodes ∧ dField w ≠ 0) := by
  unfold decode
  split
  · next h => simp [h]
  · next h => simp only [decodeOpcode_error_iff, h, false_or]

theorem engineStep_of_decode_error {s : State} (herr : s.status.err = false)
    (h : ∃ e, decode s.cmdLatch = .error e) :
    engineStep s = .next (faultEntry .badCommand s) := by
  obtain ⟨e, he⟩ := h
  simp [engineStep, dropsWord, herr, he]

/-- Settles O4: the three kinds of R76 are the decoder's three errors, and each of them faults. -/
theorem illegalWordsRaiseBadCommand : Obligations.IllegalWordsRaiseBadCommand := by
  intro w
  constructor
  · rw [decode_error_iff, rsvField_eq, opField_eq, dField_eq]
    rfl
  · rintro s rfl herr hw
    exact engineStep_of_decode_error herr hw

end Sys2Proof.Machine
end

section
/-! The two ways a command ends (60_exceptions.md R160, R165): the faults of each command (R169) and the
effect it completes with; and what follows of the engine's step. -/

namespace Sys2Proof.Machine

/-! ### The faults and the effects of the commands -/

/-- The faults that each command can raise (R169). -/
def raisedBy : Instr → List FaultCode
  | .nop => []
  | .clear => []
  | .layout _ => [.sequenceError, .unsupportedBitDepth]
  | .quant _ => [.unsupportedBitDepth, .bufferOverflow]
  | .pack _ => [.sequenceError, .unsupportedBitDepth, .bufferOverflow, .indexRange]
  | .bitmap => [.sequenceError, .noLayout, .unsupportedBitDepth, .bufferOverflow]
  | .atlasBegin =>
    [.sequenceError, .noLayout, .unsupportedBitDepth, .badRange, .emptyRenderSet,
      .renderSetOutsideRange, .badGeometry, .bufferOverflow]
  | .cell => [.sequenceError, .bufferOverflow]
  | .atlasEnd => [.sequenceError]
  | .metrics => [.noLayout, .noMatchingLayout, .badRange, .emptyRenderSet, .renderSetOutsideRange]

/-- `Effect s i u`: in state `s` command `i` has passed its checks, and `u` is its effect before
completion. The premises are the checks of the rule that later proofs rest on. -/
inductive Effect (s : State) : Instr → State → Prop where
  | nop : Effect s .nop s
  | clear : Effect s .clear (clearRun s)
  | layout (depth : Depth) (inactive : s.status.atlasActive = false) :
      Effect s (.layout depth.bits) (setLayout depth s)
  | quant (depth : Depth) (inSrc : s.op.srcOff.toNat + s.op.len.toNat ≤ s.params.srcCap)
      (inIdx : s.op.idxOff.toNat + s.op.len.toNat ≤ s.params.idxCap) :
      Effect s (.quant depth.bits) (memWrite .idx s.op.idxOff.toNat
        ((memRead .src s.op.srcOff.toNat s.op.len.toNat s).map (quantize depth))
        (drawn s.op.len.toNat s))
  | pack (depth : PackDepth) (inactive : s.status.atlasActive = false)
      (inIdx : s.op.idxOff.toNat + s.op.len.toNat ≤ s.params.idxCap)
      (inBmp : s.byteCount.toNat + packedLength depth s.op.len.toNat ≤ s.params.bmpCap) :
      Effect s (.pack depth.depth.bits)
        (append (pack depth (memRead .idx s.op.idxOff.toNat s.op.len.toNat s))
          (drawn s.op.len.toNat s))
  | bitmap (depth : PackDepth) (bd : s.layout.layoutBd.toNat = depth.depth.bits)
      (inactive : s.status.atlasActive = false) (valid : s.status.layoutValid = true)
      (inSrc : s.op.srcOff.toNat + s.sampleCount ≤ s.params.srcCap)
      (inBmp : s.byteCount.toNat + s.cellBytes ≤ s.params.bmpCap) :
      Effect s .bitmap (append (packImage depth s.width s.height s.padw
        (memRead .src s.op.srcOff.toNat s.sampleCount s)) (drawn s.sampleCount s))
  | atlasBegin (depth : PackDepth) (bd : s.layout.layoutBd.toNat = depth.depth.bits)
      (inactive : s.status.atlasActive = false) (valid : s.status.layoutValid = true)
      (range : s.op.rangeLegal = true) (nonempty : s.op.rsetEmpty = false)
      (subset : s.op.rsetInRange = true) (geometry : 0 < s.width ∧ 0 < s.height)
      (inBmp : s.byteCount.toNat + s.stride * s.height * s.op.nCodes ≤ s.params.bmpCap)
      (inAtlas : s.padw * s.height * s.op.nCodes ≤ s.params.atlasCap) :
      Effect s .atlasBegin (openAtlas s)
  | rendered (depth : PackDepth) (bd : s.layout.layoutBd.toNat = depth.depth.bits)
      (active : s.status.atlasActive = true) (next : s.nextCode.toNat ≤ s.op.rangeEnd.toNat)
      (inSet : s.op.rset s.nextCode.toNat = true)
      (inSrc : s.op.srcOff.toNat + s.sampleCount ≤ s.params.srcCap) :
      Effect s .cell (emitRendered depth (memRead .src s.op.srcOff.toNat s.sampleCount s)
        (drawn s.sampleCount s))
  | missing (active : s.status.atlasActive = true) (next : s.nextCode.toNat ≤ s.op.rangeEnd.toNat)
      (notInSet : s.op.rset s.nextCode.toNat = false) :
      Effect s .cell (emitMissing s)
  | atlasEnd (active : s.status.atlasActive = true)
      (last : s.nextCode.toNat = s.op.rangeEnd.toNat + 1) :
      Effect s .atlasEnd (closeAtlas s)
  | metrics (valid : s.status.layoutValid = true) (format : s.status.fmtValid = true)
      (range : s.op.rangeLegal = true) (nonempty : s.op.rsetEmpty = false)
      (subset : s.op.rsetInRange = true) :
      Effect s .metrics (emitMetrics s)

/-- A command that answers a next state has faulted with one of its faults, at most some draws used up,
or has completed its effect. -/
theorem exec_cases {i : Instr} {s t : State} (h : exec i s = .next t) :
    (∃ c ∈ raisedBy i, ∃ n, t = faultEntry c (drawn n s)) ∨ ∃ u, Effect s i u ∧ t = complete u := by
  cases i with
  | nop => exact .inr ⟨_, .nop, execNop_cases h⟩
  | clear => exact .inr ⟨_, .clear, execClear_cases h⟩
  | layout d =>
    obtain ⟨c, hc, rfl⟩ | ⟨depth, rfl, ha, rfl⟩ := execLayout_cases h
    · exact .inl ⟨c, hc, 0, rfl⟩
    · exact .inr ⟨_, .layout depth ha, rfl⟩
  | quant d =>
    obtain ⟨c, hc, rfl⟩ | ⟨depth, rfl, hsrc, hidx, rfl⟩ := execQuant_cases h
    · exact .inl ⟨c, hc, 0, rfl⟩
    · exact .inr ⟨_, .quant depth hsrc hidx, rfl⟩
  | pack d =>
    obtain ⟨c, hc, rfl⟩ | rfl | ⟨depth, rfl, ha, hidx, hbmp, rfl⟩ := execPack_cases h
    · exact .inl ⟨c, List.mem_append_left [FaultCode.indexRange] hc, 0, rfl⟩
    · exact .inl ⟨.indexRange, by simp [raisedBy], _, rfl⟩
    · exact .inr ⟨_, .pack depth ha hidx hbmp, rfl⟩
  | bitmap =>
    obtain ⟨c, hc, rfl⟩ | ⟨depth, hd, ha, hv, hsrc, hbmp, rfl⟩ := execBitmap_cases h
    · exact .inl ⟨c, hc, 0, rfl⟩
    · exact .inr ⟨_, .bitmap depth hd ha hv hsrc hbmp, rfl⟩
  | atlasBegin =>
    obtain ⟨c, hc, rfl⟩ | ⟨ha, hv, ⟨depth, hd⟩, hr, he, hs, hw, hh, hbmp, hatlas, rfl⟩ :=
      execAtlasBegin_cases h
    · exact .inl ⟨c, hc, 0, rfl⟩
    · exact .inr ⟨_, .atlasBegin depth hd ha hv hr he hs ⟨hw, hh⟩ hbmp hatlas, rfl⟩
  | cell =>
    obtain ⟨c, hc, rfl⟩ | ⟨ha, hn, ⟨hr, depth, hd, hsrc, rfl⟩ | ⟨hr, rfl⟩⟩ := execCell_cases h
    · exact .inl ⟨c, hc, 0, rfl⟩
    · exact .inr ⟨_, .rendered depth hd ha hn hr hsrc, rfl⟩
    · exact .inr ⟨_, .missing ha hn hr, rfl⟩
  | atlasEnd =>
    obtain ⟨c, hc, rfl⟩ | ⟨ha, hn, rfl⟩ := execAtlasEnd_cases h
    · exact .inl ⟨c, hc, 0, rfl⟩
    · exact .inr ⟨_, .atlasEnd ha hn, rfl⟩
  | metrics =>
    obtain ⟨c, hc, rfl⟩ | ⟨hv, hf, hr, he, hs, rfl⟩ := execMetrics_cases h
    · exact .inl ⟨c, hc, 0, rfl⟩
    · exact .inr ⟨_, .metrics hv hf hr he hs, rfl⟩

/-! ### What every command leaves -/

/-- What no command writes (10_state.md R35): the operand registers, IRQ_EN, the latch, the parameters
and the host's side. -/
structure SameHostSide (s t : State) : Prop where
  op : t.op = s.op
  irqEn : t.irqEn = s.irqEn
  cmdLatch : t.cmdLatch = s.cmdLatch
  params : t.params = s.params
  inputs : t.inputs = s.inputs
  responses : t.responses = s.responses

namespace Effect

variable {s u : State} {i : Instr}

theorem sameHostSide (h : Effect s i u) : SameHostSide s u := by
  cases h <;> constructor <;> simp [emitRendered, emitMissing]

theorem irqPend (h : Effect s i u) : u.irqPend = s.irqPend := by
  cases h <;> simp [emitRendered, emitMissing]

/-- Only CLEAR touches the recorded error, and it clears it (60_exceptions.md R167). -/
theorem err (h : Effect s i u) :
    (i = .clear ∧ u.status.err = false) ∨ u.status.err = s.status.err := by
  cases h <;> simp [emitRendered, emitMissing]

/-- Only METRICS writes MET (43_metrics.md R147). -/
theorem met (h : Effect s i u) : i = .metrics ∨ u.met = s.met := by
  cases h <;> simp [emitRendered, emitMissing]

/-- Only LAYOUT touches LAYOUT_VALID, and it sets it (10_state.md R24). -/
theorem layoutValid (h : Effect s i u) :
    (∃ depth : Depth, i = .layout depth.bits ∧ u.status.layoutValid = true) ∨
      u.status.layoutValid = s.status.layoutValid := by
  cases h with
  | layout depth _ => exact .inl ⟨depth, rfl, rfl⟩
  | _ => simp [emitRendered, emitMissing]

end Effect

theorem sameHostSide_of_exec {i : Instr} {s t : State} (h : exec i s = .next t) :
    SameHostSide s t := by
  obtain ⟨c, -, n, rfl⟩ | ⟨u, hu, rfl⟩ := exec_cases h
  · exact ⟨rfl, rfl, rfl, rfl, rfl, rfl⟩
  · obtain ⟨h1, h2, h3, h4, h5, h6⟩ := hu.sameHostSide
    exact ⟨h1, h2, h3, h4, h5, h6⟩

theorem sameHostSide_of_engineStep {s t : State} (h : engineStep s = .next t) :
    SameHostSide s t := by
  obtain ⟨-, -, rfl⟩ | ⟨-, ⟨e, -, rfl⟩ | ⟨i, -, hi⟩⟩ := engineStep_cases h
  · exact ⟨rfl, rfl, rfl, rfl, rfl, rfl⟩
  · exact ⟨rfl, rfl, rfl, rfl, rfl, rfl⟩
  · exact sameHostSide_of_exec hi

/-- An effect other than CLEAR's, on a block without an error, records none. -/
theorem err_eq_false_of_effect {s u : State} {i : Instr} (herr : s.status.err = false)
    (h : Effect s i u) : u.status.err = false := by
  obtain ⟨-, hu⟩ | hu := h.err
  · exact hu
  · exact hu.trans herr

/-- With no error recorded before it, a command that leaves one recorded has faulted. -/
theorem fault_of_exec {i : Instr} {s t : State} (herr : s.status.err = false)
    (h : exec i s = .next t) (ht : t.status.err = true) :
    ∃ c ∈ raisedBy i, ∃ n, t = faultEntry c (drawn n s) := by
  obtain hc | ⟨u, hu, rfl⟩ := exec_cases h
  · exact hc
  · have : u.status.err = true := ht
    rw [err_eq_false_of_effect herr hu] at this
    cases this

/-- With no error recorded after it, a command has completed. -/
theorem effect_of_exec {i : Instr} {s t : State} (h : exec i s = .next t)
    (ht : t.status.err = false) : ∃ u, Effect s i u ∧ t = complete u := by
  obtain ⟨c, -, n, rfl⟩ | hu := exec_cases h
  · cases ht
  · exact hu

/-- No listed command raises BadCommand (R169), so its ERRCODE is one of 0x02 to 0x0B (R162). -/
theorem errCodeOf_bounds {i : Instr} {c : FaultCode} (h : c ∈ raisedBy i) :
    0x02 ≤ (errCodeOf c).toNat ∧ (errCodeOf c).toNat ≤ 0x0B := by
  cases c with
  | badCommand => cases i <;> simp [raisedBy] at h
  | _ => decide

/-- A command whose word is not dropped: no error is recorded, or it is CLEAR. -/
theorem err_or_clear_of_decode {s : State} {i : Instr} (hi : decode s.cmdLatch = .ok i)
    (hd : s.status.err = false ∨ s.cmdLatch = 0x00000001#32) :
    s.status.err = false ∨ i = .clear := by
  refine hd.imp_right fun hw => ?_
  have hclear := decode_eq_clear_iff.2 hw
  rw [hi] at hclear
  exact Except.ok.inj hclear

/-! ### The obligations on the engine's step -/

/-- Settles O7: a drop, a fault of the decoder or of a command, and a completion are the three ends; a
command executed with an error recorded is CLEAR, which raises nothing. -/
theorem engineStepCompletesFaultsOrDrops : Obligations.EngineStepCompletesFaultsOrDrops := by
  intro s t h
  obtain ⟨herr, -, rfl⟩ | ⟨hd, ⟨e, he, rfl⟩ | ⟨i, hi, hexec⟩⟩ := engineStep_cases h
  · exact ⟨rfl, .inr (.inr ⟨rfl, herr⟩)⟩
  · refine ⟨rfl, .inr (.inl ⟨rfl, rfl, hd.resolve_right fun hw => ?_⟩)⟩
    rw [decode_eq_clear_iff.2 hw] at he
    cases he
  · have hnd := err_or_clear_of_decode hi hd
    obtain ⟨c, hc, n, rfl⟩ | ⟨u, hu, rfl⟩ := exec_cases hexec
    · refine ⟨rfl, .inr (.inl ⟨rfl, rfl, hnd.resolve_right ?_⟩)⟩
      rintro rfl
      simp [raisedBy] at hc
    · refine ⟨rfl, .inl ⟨by rw [complete_irqPend, hu.irqPend], ?_⟩⟩
      obtain herr | rfl := hnd
      · exact err_eq_false_of_effect (u := u) herr hu
      · cases hu
        rfl

/-- Settles O8: a fault is the fault record over some draws. -/
theorem faultsArePrecise : Obligations.FaultsArePrecise := by
  intro i s t herr h ht
  obtain ⟨c, hc, n, rfl⟩ := fault_of_exec herr h ht
  obtain ⟨hlo, hhi⟩ := errCodeOf_bounds hc
  exact ⟨errCodeOf c, hlo, hhi, rfl⟩

/-- Settles O9: the codes are those of the faults of the command's row. -/
theorem commandsRaiseOnlyTheirFaults : Obligations.CommandsRaiseOnlyTheirFaults := by
  intro i s t herr h ht
  obtain ⟨c, hc, n, rfl⟩ := fault_of_exec herr h ht
  have hmem : errCodeOf c ∈ (raisedBy i).map errCodeOf := List.mem_map_of_mem hc
  cases i
  case nop | clear => simp [raisedBy] at hc
  all_goals exact hmem

end Sys2Proof.Machine
end

section
/-! A step of the block as the engine's or the host's (20_memory.md R61 to R63): which of the two it is,
and what each leaves to the other. -/

namespace Sys2Proof.Machine

/-! ### Which step is taken -/

theorem popInput_eq {s : State} {e : HostEvent} {rest : List HostEvent} (h : s.inputs = e :: rest) :
    popInput s = { s with inputs := rest } := by
  simp [popInput, h]

theorem step_of_no_event {s : State} (hin : s.inputs = []) (hb : s.status.busy = true) :
    step s = engineStep s := by
  simp [step, nextTurn, hin, engineTurn, hb]

theorem step_of_idle {s : State} {rest : List HostEvent} (hin : s.inputs = .idle :: rest)
    (hb : s.status.busy = true) : step s = engineStep { s with inputs := rest } := by
  simp [step, nextTurn, hin, engineTurn, hb, popInput]

theorem step_of_reset {s : State} {rest : List HostEvent} (hin : s.inputs = .reset :: rest) :
    step s = .next (resetBlock { s with inputs := rest }) := by
  simp [step, nextTurn, hin, popInput]

theorem apertureOffset_of_inAperture {P : Params} {a : Access} (h : InAperture P (.access a)) :
    apertureOffset P a.addr = some (a.addr - P.blockBase) :=
  apertureOffset_eq_some.2 ⟨h.1, h.2, rfl⟩

section access
variable {s : State} {a : Access} {rest : List HostEvent} (hin : s.inputs = .access a :: rest)
include hin

/-- A held access: the engine steps instead (R62). -/
theorem step_of_held (hap : InAperture s.params (.access a)) (hb : s.status.busy = true)
    (hc : completesWhileBusy (a.addr - s.params.blockBase) a = false) : step s = engineStep s := by
  simp [step, nextTurn, hin, accessTurn, apertureOffset_of_inAperture hap, hb, hc]

theorem step_of_completed (hap : InAperture s.params (.access a))
    (h : s.status.busy = false ∨ completesWhileBusy (a.addr - s.params.blockBase) a = true) :
    step s = .next (completeAccess (a.addr - s.params.blockBase) a s) := by
  obtain hb | hc := h
  · simp [step, nextTurn, hin, accessTurn, apertureOffset_of_inAperture hap, hb]
  · simp [step, nextTurn, hin, accessTurn, apertureOffset_of_inAperture hap, hc]

theorem step_outside_aperture (hap : ¬InAperture s.params (.access a)) :
    step s = .fault (.outsideAperture a.addr) := by
  have : apertureOffset s.params a.addr = none := if_neg hap
  simp [step, nextTurn, hin, accessTurn, this]

end access

/-! ### What a host access leaves -/

/-- What no host access writes: STATUS but for BUSY, the fault record, the layout registers, the counts,
and the buffers that only commands write (10_state.md R24, R25, R35, R37 to R40). -/
structure SameEngineSide (s t : State) : Prop where
  params : t.params = s.params
  status : t.status = { s.status with busy := t.status.busy }
  errCmd : t.errCmd = s.errCmd
  layout : t.layout = s.layout
  byteCount : t.byteCount = s.byteCount
  nextCode : t.nextCode = s.nextCode
  atlasBase : t.atlasBase = s.atlasBase
  bmp : t.bmp = s.bmp
  atlas : t.atlas = s.atlas
  met : t.met = s.met

theorem sameEngineSide_refl (s : State) : SameEngineSide s s :=
  ⟨rfl, rfl, rfl, rfl, rfl, rfl, rfl, rfl, rfl, rfl⟩

theorem sameEngineSide_setOp (s : State) (o : OperandRegs) : SameEngineSide s (setOp s o) :=
  ⟨rfl, rfl, rfl, rfl, rfl, rfl, rfl, rfl, rfl, rfl⟩

theorem sameEngineSide_setLockedOp (s : State) (o : OperandRegs) :
    SameEngineSide s (setLockedOp s o) := by
  unfold setLockedOp
  split
  · exact sameEngineSide_refl s
  · exact sameEngineSide_setOp s o

theorem sameEngineSide_writeReg (v : Word) (s : State) (r : Reg) :
    SameEngineSide s (writeReg v s r) := by
  cases r
  case cfgHeight | range | rset0 | rset1 | rset2 | rset3 => exact sameEngineSide_setLockedOp s _
  all_goals exact ⟨rfl, rfl, rfl, rfl, rfl, rfl, rfl, rfl, rfl, rfl⟩

theorem sameEngineSide_performAt (off : Nat) (s : State) (a : Access) :
    SameEngineSide s (performAt off s a).2 := by
  obtain h | ⟨n, h⟩ | ⟨_, _, v, r, -, -, h⟩ | ⟨_, _, v, b, k, n, -, rfl | rfl, -, h⟩ :=
    performAt_cases off s a <;> rw [h]
  · exact sameEngineSide_refl s
  · exact ⟨rfl, rfl, rfl, rfl, rfl, rfl, rfl, rfl, rfl, rfl⟩
  · exact sameEngineSide_writeReg v s r
  all_goals exact ⟨rfl, rfl, rfl, rfl, rfl, rfl, rfl, rfl, rfl, rfl⟩

theorem sameEngineSide_completeAccess (off : Nat) (a : Access) (s : State) :
    SameEngineSide s (completeAccess off a s) := by
  obtain ⟨h1, h2, h3, h4, h5, h6, h7, h8, h9, h10⟩ := sameEngineSide_performAt off s a
  exact ⟨h1, h2, h3, h4, h5, h6, h7, h8, h9, h10⟩

/-- A step is a reset, an engine step on the state with some of the host's events, or the host's. -/
theorem step_reset_engine_or_host {s t : State} (h : step s = .next t) :
    (∃ rest, s.inputs = .reset :: rest ∧ t = resetBlock (popInput s)) ∨
    (s.status.busy = true ∧ (∃ l, engineStep { s with inputs := l } = .next t)) ∨
    SameEngineSide s t := by
  obtain ⟨-, -, rfl⟩ | ⟨rest, -, -, rfl⟩ | ⟨hb, u, hu, ⟨rfl, -⟩ | ⟨rest, -, rfl⟩⟩ | hreset |
    ⟨a, rest, off, -, -, -, rfl⟩ := step_cases h
  · exact .inr (.inr (sameEngineSide_refl _))
  · exact .inr (.inr ⟨rfl, rfl, rfl, rfl, rfl, rfl, rfl, rfl, rfl, rfl⟩)
  · exact .inr (.inl ⟨hb, _, hu⟩)
  · exact .inr (.inl ⟨hb, _, hu⟩)
  · exact .inl hreset
  · exact .inr (.inr (sameEngineSide_completeAccess off a s))

/-! ### The step that executes a command -/

/-- Settles O5: in the three turns the engine steps, and its step on the decoded word is the command. -/
theorem stepExecutesDecodedCommand : Obligations.StepExecutesDecodedCommand := by
  intro s i hb hd hi
  refine ⟨fun hin => ?_, fun rest hin => ?_, fun a rest hin hap hc => ?_⟩
  · rw [step_of_no_event hin hb, engineStep_of_decode hd hi]
  · rw [step_of_idle hin hb]
    exact engineStep_of_decode hd hi
  · rw [step_of_held hin hap hb hc, engineStep_of_decode hd hi]

/-! ### What only one of the two changes -/

/-- Settles O10: commands leave the host's side, and of the accesses only a register write, which waits
for BUSY = 0, touches the operand registers. -/
theorem operandRegistersAreWrittenByTheHostOnly :
    Obligations.OperandRegistersAreWrittenByTheHostOnly := by
  constructor
  · intro i s t h
    obtain ⟨h1, h2, h3, h4, h5, h6⟩ := sameHostSide_of_exec h
    exact ⟨h1, h2, h3, h4, h5, h6⟩
  · intro s t h hop
    obtain ⟨-, -, rfl⟩ | ⟨rest, -, -, rfl⟩ | ⟨-, u, hu, ⟨rfl, -⟩ | ⟨rest, -, rfl⟩⟩ |
      ⟨rest, hin, -⟩ | ⟨a, rest, off, hin, -, hturn, rfl⟩ := step_cases h
    · exact absurd rfl hop
    · exact absurd rfl hop
    · exact absurd (sameHostSide_of_engineStep hu).op hop
    · exact absurd (sameHostSide_of_engineStep hu).op hop
    · exact .inl ⟨rest, hin⟩
    · have hb : s.status.busy = false := hturn.resolve_right fun hc => by
        obtain ⟨r, hr⟩ := completeAccess_whileBusy hc s
        exact hop (by rw [hr])
      have hop : (performAt off s a).2.op ≠ s.op := hop
      obtain hp | ⟨n, hp⟩ | ⟨w, addr, v, r, rfl, -, -⟩ | ⟨_, _, _, b, k, n, -, -, -, hp⟩ :=
        performAt_cases off s a
      · exact absurd (by rw [hp]) hop
      · exact absurd (by rw [hp]; rfl) hop
      · exact .inr ⟨w, addr, v, rest, hin, hb⟩
      · exact absurd (by rw [hp, memWrite_op]) hop

/-- The engine's step leaves MET, or it is METRICS. -/
theorem met_of_engineStep {s t : State} (h : engineStep s = .next t) :
    t.met = s.met ∨ (s.status.err = false ∧ s.cmdLatch = 0x00000040#32) := by
  obtain ⟨-, -, rfl⟩ | ⟨hd, ⟨e, -, rfl⟩ | ⟨i, hi, hexec⟩⟩ := engineStep_cases h
  · exact .inl rfl
  · exact .inl rfl
  · obtain ⟨c, -, n, rfl⟩ | ⟨u, hu, rfl⟩ := exec_cases hexec
    · exact .inl rfl
    · obtain rfl | hmet := hu.met
      · have hw : s.cmdLatch = 0x00000040#32 := (encode_of_decode hi).symm
        exact .inr ⟨(err_or_clear_of_decode hi hd).resolve_right nofun, hw⟩
      · exact .inl hmet

/-- Settles O11: no access writes MET, and of the engine's steps only METRICS does. -/
theorem metChangesOnlyByMetrics : Obligations.MetChangesOnlyByMetrics := by
  intro s t a h hmet
  obtain ⟨rest, hin, -⟩ | ⟨hb, l, hl⟩ | hsame := step_reset_engine_or_host h
  · exact .inl ⟨rest, hin⟩
  · obtain hsame | hmetrics := met_of_engineStep hl
    · exact absurd (by rw [hsame]) hmet
    · exact .inr ⟨hb, hmetrics⟩
  · exact absurd (by rw [hsame.met]) hmet

/-- The engine's step leaves LAYOUT_VALID, or it is a LAYOUT that sets it. -/
theorem layoutValid_of_engineStep {s t : State} (h : engineStep s = .next t) :
    t.status.layoutValid = s.status.layoutValid ∨
      (t.status.layoutValid = true ∧ ∃ d ∈ [1, 4, 8], decode s.cmdLatch = .ok (.layout d)) := by
  obtain ⟨-, -, rfl⟩ | ⟨-, ⟨e, -, rfl⟩ | ⟨i, hi, hexec⟩⟩ := engineStep_cases h
  · exact .inl rfl
  · exact .inl rfl
  · obtain ⟨c, -, n, rfl⟩ | ⟨u, hu, rfl⟩ := exec_cases hexec
    · exact .inl rfl
    · obtain ⟨depth, rfl, hvalid⟩ | hvalid := hu.layoutValid
      · exact .inr ⟨hvalid, _, mem_depths_iff.2 ⟨depth, rfl⟩, hi⟩
      · exact .inl hvalid

/-- Settles O12: no access writes LAYOUT_VALID, a LAYOUT sets it, and a reset clears it. -/
theorem layoutValidIsClearedByResetOnly : Obligations.LayoutValidIsClearedByResetOnly := by
  intro s t h hne
  obtain ⟨rest, hin, rfl⟩ | ⟨hb, l, hl⟩ | hsame := step_reset_engine_or_host h
  · exact ⟨fun _ => ⟨rest, hin⟩, fun hs => absurd hs.symm hne⟩
  · obtain hsame | ⟨hset, hd⟩ := layoutValid_of_engineStep hl
    · exact absurd hsame hne
    · exact ⟨fun hs => absurd (hset.trans hs.symm) hne, fun _ => ⟨hb, hd⟩⟩
  · exact absurd (by rw [hsame.status]) hne

end Sys2Proof.Machine
end

section
/-! The invariant of the block (Safety.lean): reset meets it, and every host access, fault and command
other than CELL keeps it. -/

namespace Sys2Proof.Machine

/-! ### What the invariant speaks of -/

/-- The state with all that `AtlasOpen` says nothing of set aside. -/
def atlasView (s : State) : State :=
  { s with
    cmdLatch := 0, irqEn := ⟨false, false⟩, irqPend := ⟨false, false⟩, errCmd := 0
    status := { s.status with busy := false, err := false, errCode := 0, metValid := false }
    op := { s.op with cfgWidth := 0, cfgAdvance := 0, srcOff := 0, idxOff := 0, len := 0 }
    src := [], idx := [], met := [], inputs := [], responses := [], draws := 0 }

theorem atlasOpen_of_view_eq {s t : State} (h : AtlasOpen s) (hview : atlasView t = atlasView s) :
    AtlasOpen t := by
  obtain ⟨h1, h2, h3, h4, h5, h6, h7, h8, h9, h10, h11, h12, h13, h14⟩ := h
  have hs : AtlasOpen (atlasView s) := ⟨h1, h2, h3, h4, h5, h6, h7, h8, h9, h10, h11, h12, h13, h14⟩
  rw [← hview] at hs
  obtain ⟨h1, h2, h3, h4, h5, h6, h7, h8, h9, h10, h11, h12, h13, h14⟩ := hs
  exact ⟨h1, h2, h3, h4, h5, h6, h7, h8, h9, h10, h11, h12, h13, h14⟩

/-- The state with all that the invariant says nothing of set aside. -/
def invView (s : State) : State :=
  { s with
    cmdLatch := 0, irqEn := ⟨false, false⟩, irqPend := ⟨false, false⟩
    status := { s.status with busy := false }
    op := { s.op with cfgWidth := 0, cfgAdvance := 0, srcOff := 0, idxOff := 0, len := 0 }
    inputs := [], responses := [], draws := 0 }

theorem inv_of_view_eq {s t : State} (h : Inv s) (hview : invView t = invView s) : Inv t := by
  have hs : Inv (invView s) := ⟨h.params, h.buffers, h.faultRecord, h.layout, h.counts,
    fun ha => atlasOpen_of_view_eq (h.atlasOpen ha) rfl, h.atlasDone, h.metrics⟩
  rw [← hview] at hs
  exact ⟨hs.params, hs.buffers, hs.faultRecord, hs.layout, hs.counts,
    fun ha => atlasOpen_of_view_eq (hs.atlasOpen ha) rfl, hs.atlasDone, hs.metrics⟩

/-! ### Reset -/

theorem inv_resetOf {P : Params} (hP : P.Legal) : Inv (State.resetOf P) where
  params := hP
  buffers := buffersOk_resetOf P
  faultRecord := ⟨fun _ => ⟨rfl, rfl⟩, nofun⟩
  layout := ⟨fun _ => ⟨rfl, rfl⟩, nofun⟩
  counts := ⟨Nat.zero_le _, Nat.le_refl _, Nat.zero_le _, fun a ha => absurd ha (Nat.not_lt_zero a)⟩
  atlasOpen := nofun
  atlasDone := nofun
  metrics := nofun

theorem vectors_are_legal : Params.vectors.Legal :=
  ⟨by decide, by decide, by decide, by decide, by decide, by decide⟩

/-- Settles O14: at reset nothing is valid, counted or written. -/
theorem resetMeetsTheInvariant : Obligations.ResetMeetsTheInvariant :=
  ⟨fun _ hP => inv_resetOf hP, inv_resetOf vectors_are_legal⟩

/-! ### The host's accesses -/

section keep
variable {s : State} (h : Inv s)
include h

theorem inv_popInput : Inv (popInput s) := inv_of_view_eq h rfl

theorem inv_complete : Inv (complete s) := inv_of_view_eq h rfl

theorem inv_drawn (n : Nat) : Inv (drawn n s) := inv_of_view_eq h rfl

theorem inv_resetBlock : Inv (resetBlock s) := inv_of_view_eq (inv_resetOf h.params) rfl

/-- With no open atlas the invariant says nothing of the operand registers. -/
theorem inv_setOp (ha : s.status.atlasActive = false) (o : OperandRegs) : Inv (setOp s o) :=
  ⟨h.params, h.buffers, h.faultRecord, h.layout, h.counts, fun ha' => by simp [ha] at ha',
    h.atlasDone, h.metrics⟩

theorem inv_setLockedOp (o : OperandRegs) : Inv (setLockedOp s o) := by
  unfold setLockedOp
  split
  · exact h
  · next ha => exact inv_setOp h (by simpa using ha) o

theorem inv_writeReg (v : Word) (r : Reg) : Inv (writeReg v s r) := by
  cases r
  case cfgHeight | range | rset0 | rset1 | rset2 | rset3 => exact inv_setLockedOp h _
  all_goals exact inv_of_view_eq h rfl

/-- A write inside SRC or IDX keeps the invariant, which says of them only their form. -/
theorem inv_memWrite {b : Buffer} (hb : b = .src ∨ b = .idx) {off : Nat} {v : List Byte}
    (hv : off + v.length ≤ capacity s.params b) : Inv (memWrite b off v s) := by
  have hbuf := buffersOk_memWrite h.buffers hv
  obtain rfl | rfl := hb
  all_goals
    exact ⟨h.params, hbuf, h.faultRecord, h.layout, h.counts,
      fun ha => atlasOpen_of_view_eq (h.atlasOpen ha) rfl, h.atlasDone, h.metrics⟩

theorem inv_performAt (off : Nat) (a : Access) : Inv (performAt off s a).2 := by
  obtain hp | ⟨n, hp⟩ | ⟨_, _, v, r, -, -, hp⟩ | ⟨_, _, v, b, k, n, -, hb, hk, hp⟩ :=
    performAt_cases off s a <;> rw [hp]
  · exact h
  · exact inv_drawn h n
  · exact inv_writeReg h v r
  · exact inv_memWrite h hb (by rwa [length_bytesOf])

theorem inv_completeAccess (off : Nat) (a : Access) : Inv (completeAccess off a s) :=
  inv_of_view_eq (inv_performAt h off a) rfl

/-! ### Faults and the commands on one part of the state -/

theorem inv_faultEntry (c : FaultCode) : Inv (faultEntry c s) where
  params := h.params
  buffers := h.buffers
  faultRecord := ⟨nofun, fun _ => ⟨⟨c, rfl⟩, rfl, rfl, rfl⟩⟩
  layout := h.layout
  counts := h.counts
  atlasOpen := nofun
  atlasDone := nofun
  metrics := nofun

theorem inv_clearRun : Inv (clearRun s) where
  params := h.params
  buffers := h.buffers
  faultRecord := ⟨fun _ => ⟨rfl, rfl⟩, nofun⟩
  layout := h.layout
  counts := ⟨Nat.zero_le _, Nat.le_refl _, Nat.zero_le _, fun a ha => absurd ha (Nat.not_lt_zero a)⟩
  atlasOpen := nofun
  atlasDone := nofun
  metrics := nofun

end keep

/-- PADW and STRIDE of a 16-bit width fit their registers (40_layout.md R94). -/
theorem toNat_padw_layoutRegsOf (P : Params) (w : Half) (d : Depth) :
    (layoutRegsOf P w d).padw.toNat = paddedWidth w.toNat d.bits := by
  have := paddedWidth_le w d
  simp only [layoutRegsOf, BitVec.toNat_ofNat]
  omega

theorem toNat_stride_layoutRegsOf (P : Params) (w : Half) (d : Depth) :
    (layoutRegsOf P w d).stride.toNat = lineStride w.toNat d.bits := by
  have := lineStride_le w d
  simp only [layoutRegsOf, BitVec.toNat_ofNat]
  omega

/-- LAYOUT's registers are the layout of their width and depth (40_layout.md R90). -/
theorem layoutOk_setLayout (d : Depth) (s : State) : LayoutOk (setLayout d s) := by
  refine ⟨nofun, fun _ => ⟨d, ?_, toNat_padw_layoutRegsOf _ _ _, toNat_stride_layoutRegsOf _ _ _,
    rfl, rfl⟩⟩
  cases d <;> rfl

theorem inv_setLayout {s : State} (h : Inv s) (ha : s.status.atlasActive = false) (d : Depth) :
    Inv (setLayout d s) where
  params := h.params
  buffers := h.buffers
  faultRecord := ⟨h.faultRecord.1, fun he => ⟨(h.faultRecord.2 he).1, ha, rfl, rfl⟩⟩
  layout := layoutOk_setLayout d s
  counts := h.counts
  atlasOpen := fun ha' => by simp [ha] at ha'
  atlasDone := nofun
  metrics := nofun

/-- An Append that fits keeps BYTE_COUNT below BMP's capacity and above written bytes only
(20_memory.md R59). -/
theorem countsOk_append {v : List Byte} {s : State} (h : CountsOk s) (hP : s.params.Legal)
    (hv : s.byteCount.toNat + v.length ≤ s.params.bmpCap) : CountsOk (append v s) := by
  obtain ⟨hcap, hbase, hnext, hwritten⟩ := h
  unfold CountsOk
  rw [toNat_append_byteCount hP hv]
  refine ⟨hv, Nat.le_trans hbase (Nat.le_add_right _ _), hnext, fun a ha => ?_⟩
  rw [get?_bmp_append]
  split
  · exact ⟨_, List.getElem?_eq_getElem (by omega)⟩
  · exact hwritten a (by omega)

theorem inv_append {v : List Byte} {s : State} (h : Inv s) (ha : s.status.atlasActive = false)
    (hv : s.byteCount.toNat + v.length ≤ s.params.bmpCap) : Inv (append v s) :=
  ⟨h.params, buffersOk_append h.buffers hv, h.faultRecord, h.layout,
    countsOk_append h.counts h.params hv, fun ha' => by simp [ha] at ha', h.atlasDone, h.metrics⟩

/-! ### The layout at a depth of the packer -/

theorem bits_injective {d d' : Depth} (h : d.bits = d'.bits) : d = d' :=
  Option.some.inj ((ofNat?_bits d).symm.trans ((congrArg Depth.ofNat? h).trans (ofNat?_bits d')))

section layout
variable {s : State} (hl : LayoutOk s) (hv : s.status.layoutValid = true)
include hl hv

theorem layout_at_depth {d : PackDepth} (hd : s.layout.layoutBd.toNat = d.depth.bits) :
    s.padw = paddedWidth s.width d.depth.bits ∧ s.stride = lineStride s.width d.depth.bits ∧
      s.status.fmtValid = true := by
  obtain ⟨d', hbd, hpadw, hstride, -, hfmt⟩ := hl.2 hv
  obtain rfl := bits_injective (hbd.symm.trans hd)
  exact ⟨hpadw, hstride, by rw [hfmt]; cases d <;> rfl⟩

theorem width_le_padw {d : PackDepth} (hd : s.layout.layoutBd.toNat = d.depth.bits) :
    s.width ≤ s.padw := by
  rw [(layout_at_depth hl hv hd).1]
  exact le_paddedWidth _ _

/-- FMT_VALID says that the packer has the layout's depth (40_layout.md R90). -/
theorem exists_packDepth (hf : s.status.fmtValid = true) :
    ∃ d : PackDepth, s.layout.layoutBd.toNat = d.depth.bits := by
  obtain ⟨d, hbd, -, -, -, hfmt⟩ := hl.2 hv
  cases d with
  | one => rw [hf] at hfmt; cases hfmt
  | four => exact ⟨.four, hbd⟩
  | eight => exact ⟨.eight, hbd⟩

/-- A packed image of the current layout is STRIDE * h bytes (41_quantize_pack.md R111). -/
theorem length_packImage_layout {d : PackDepth} (hd : s.layout.layoutBd.toNat = d.depth.bits)
    {x : List Byte} (hx : x.length = s.sampleCount) :
    (packImage d s.width s.height s.padw x).length = s.cellBytes := by
  obtain ⟨hpadw, hstride, -⟩ := layout_at_depth hl hv hd
  rw [length_packImage hx hpadw, State.cellBytes, hstride]

end layout

/-! ### ATLAS_BEGIN, ATLAS_END and METRICS -/

theorem get?_write_zeros (m : Memory) {n a : Nat} (h : a < n) :
    (m.write 0 (List.replicate n 0)).get? a = some 0 := by
  rw [get?_write, List.length_replicate, if_pos ⟨Nat.zero_le a, by omega⟩, Nat.sub_zero,
    List.getElem?_replicate, if_pos h]

/-- A place of the preview is below its size. -/
theorem cell_place_lt {k n h p j : Nat} (hk : k < n) (hj : j < h * p) :
    k * h * p + j < p * h * n := by
  have := place_lt hk hj
  rwa [← Nat.mul_assoc, Nat.mul_comm h p] at this

theorem inv_openAtlas {s : State} (h : Inv s) (herr : s.status.err = false)
    {d : PackDepth} (hd : s.layout.layoutBd.toNat = d.depth.bits)
    (hv : s.status.layoutValid = true) (hr : s.op.rangeLegal = true) (he : s.op.rsetEmpty = false)
    (hs : s.op.rsetInRange = true) (hg : 0 < s.width ∧ 0 < s.height)
    (hbmp : s.byteCount.toNat + s.stride * s.height * s.op.nCodes ≤ s.params.bmpCap)
    (hatlas : s.padw * s.height * s.op.nCodes ≤ s.params.atlasCap) : Inv (openAtlas s) := by
  obtain ⟨-, -, hfmt⟩ := layout_at_depth h.layout hv hd
  obtain ⟨hle, h127⟩ := (rangeLegal_iff _).1 hr
  obtain ⟨hcap, -, -, hwritten⟩ := h.counts
  have hzero : ∀ a, a < s.padw * s.height * s.op.nCodes → (openAtlas s).atlas.get? a = some 0 :=
    fun a ha => get?_write_zeros _ ha
  have hindex : (openAtlas s).cellIndex = 0 := Nat.sub_self _
  have hopen : AtlasOpen (openAtlas s) :=
    { layout := ⟨hv, hfmt⟩
      notDone := rfl
      range := hr
      nonempty := he
      subset := hs
      geometry := hg
      next := ⟨Nat.le_refl _, Nat.le_succ_of_le hle⟩
      filled := by rw [hindex, Nat.zero_mul]; rfl
      fitsBmp := by rw [Nat.mul_comm]; exact hbmp
      fitsAtlas := hatlas
      missing := fun k j hk => absurd (hindex ▸ hk) (Nat.not_lt_zero k)
      preview := fun a ha => ⟨0, hzero a ha⟩
      padding := fun row col hrow _ hcol => hzero _ <| by
        rw [Nat.mul_assoc]; exact place_lt hrow hcol
      unlit := fun k j hk _ hj => hzero _ (cell_place_lt hk hj) }
  exact
    { params := h.params
      buffers := buffersOk_memWrite (b := .atlas) h.buffers (by
        rw [List.length_replicate, Nat.zero_add]; exact hatlas)
      faultRecord := ⟨h.faultRecord.1, fun he => by simp [herr] at he⟩
      layout := h.layout
      counts := ⟨hcap, Nat.le_refl _, by rw [openAtlas_nextCode]; omega, hwritten⟩
      atlasOpen := fun _ => hopen
      atlasDone := nofun
      metrics := h.metrics }

theorem inv_closeAtlas {s : State} (h : Inv s) (herr : s.status.err = false)
    (ha : s.status.atlasActive = true) : Inv (closeAtlas s) where
  params := h.params
  buffers := h.buffers
  faultRecord := ⟨h.faultRecord.1, fun he => by simp [herr] at he⟩
  layout := h.layout
  counts := h.counts
  atlasOpen := nofun
  atlasDone := fun _ => ⟨(h.atlasOpen ha).layout.2, rfl⟩
  metrics := h.metrics

/-- METRICS leaves its table in MET (43_metrics.md R140). -/
theorem get?_met_emitMetrics (s : State) {a : Nat} (ha : a < 148) :
    (emitMetrics s).met.get? a = (metricsTable s)[a]? := by
  rw [emitMetrics_met, get?_write, length_metricsTable, if_pos ⟨Nat.zero_le a, by omega⟩,
    Nat.sub_zero]

/-- The bytes that METRICS leaves in the five fields (43_metrics.md R142). -/
theorem get?_met_fields (s : State) {i : Nat} (hi : i < 4) :
    (emitMetrics s).met.get? (128 + i) = (le32 s.layout.fmt)[i]? ∧
    (emitMetrics s).met.get? (132 + i) = (le32 s.layout.stride)[i]? ∧
    (emitMetrics s).met.get? (136 + i) = (le32 s.layout.padw)[i]? ∧
    (emitMetrics s).met.get? (140 + i) = (le32 (s.op.cfgHeight.setWidth 32))[i]? ∧
    (emitMetrics s).met.get? (144 + i) = some 0 := by
  rw [get?_met_emitMetrics s (by omega), get?_met_emitMetrics s (by omega),
    get?_met_emitMetrics s (by omega), get?_met_emitMetrics s (by omega),
    get?_met_emitMetrics s (by omega)]
  exact metricsTable_fields s hi

/-- The table that METRICS writes is the one MET_VALID speaks of (43_metrics.md R142, R147). -/
theorem metricsOk_emitMetrics {s : State} (hf : s.status.fmtValid = true) :
    MetricsOk (emitMetrics s) := by
  refine fun _ => ⟨hf, fun a ha => ⟨_, (get?_met_emitMetrics s ha).trans
    (List.getElem?_eq_getElem ?_)⟩, fun i hi => ?_⟩
  · rwa [length_metricsTable]
  · obtain ⟨hfmt, hstride, hpadw, -, hzero⟩ := get?_met_fields s hi
    exact ⟨hfmt, hstride, hpadw, hzero⟩

theorem inv_emitMetrics {s : State} (h : Inv s) (herr : s.status.err = false)
    (hf : s.status.fmtValid = true) : Inv (emitMetrics s) where
  params := h.params
  buffers := buffersOk_memWrite (b := .met) h.buffers (by rw [length_metricsTable]; rfl)
  faultRecord := ⟨h.faultRecord.1, fun he => by simp [herr] at he⟩
  layout := h.layout
  counts := h.counts
  atlasOpen := fun ha => atlasOpen_of_view_eq (h.atlasOpen ha) rfl
  atlasDone := h.atlasDone
  metrics := metricsOk_emitMetrics hf

end Sys2Proof.Machine
end

section
/-! One CELL in an open atlas (42_atlas.md R125 to R128): what both of its arms write, and that the
invariant is kept. -/

namespace Sys2Proof.Machine

/-! ### What both arms do -/

/-- CELL's effect with the bytes `v` appended to BMP and the preview `m`. -/
def emitCell (v : List Byte) (m : Memory) (s : State) : State :=
  { s with
    bmp := s.bmp.write s.byteCount.toNat v
    byteCount := BitVec.ofNat 32 (s.byteCount.toNat + v.length)
    atlas := m
    nextCode := s.nextCode + 1 }

/-- The Rendered arm, after the draws of its read. -/
theorem emitRendered_drawn (d : PackDepth) (x : List Byte) (k : Nat) (s : State) :
    emitRendered d x (drawn k s) = emitCell (packImage d s.width s.height s.padw x)
      (previewRows s.padw s.width s.height (s.cellIndex * s.height * s.padw) x s.atlas)
      (drawn k s) := rfl

theorem emitMissing_eq (s : State) :
    emitMissing s = emitCell (List.replicate s.cellBytes 0) s.atlas s := rfl

/-- The preview place of row `r`, column `c` of the cell of NEXT_CODE (R127). -/
def cellPlace (s : State) (r c : Nat) : Nat := (s.cellIndex * s.height + r) * s.padw + c

/-- What CELL writes, in state `s`: a cell of the right size, the preview at the cell's own pixels only;
and for a missing code zeros and nothing. -/
structure CellWrite (s : State) (v : List Byte) (m : Memory) : Prop where
  length : v.length = s.cellBytes
  wf : m.wf
  bounded : ∀ c ∈ m, c.1 < s.params.atlasCap
  outside : ∀ a, (∀ r c, r < s.height → c < s.width → a ≠ cellPlace s r c) →
    m.get? a = s.atlas.get? a
  written : ∀ a, (∃ b, s.atlas.get? a = some b) → ∃ b, m.get? a = some b
  missing : s.op.rset s.nextCode.toNat = false →
    (∀ j, j < s.cellBytes → v[j]? = some 0) ∧ m = s.atlas

/-! ### The cell of NEXT_CODE lies in BMP and ATLAS -/

section bounds
variable {s : State} (h : Inv s) (ha : s.status.atlasActive = true)
  (hn : s.nextCode.toNat ≤ s.op.rangeEnd.toNat)
include h ha hn

/-- NEXT_CODE is one of the N codes. -/
theorem cellIndex_lt : s.cellIndex < s.op.nCodes := by
  have := (h.atlasOpen ha).next.1
  unfold State.cellIndex OperandRegs.nCodes
  omega

theorem toNat_advanceCode : (s.nextCode + 1).toNat = s.nextCode.toNat + 1 := by
  have := ((rangeLegal_iff _).1 (h.atlasOpen ha).range).2
  have hone : (1 : Byte).toNat = 1 := rfl
  rw [BitVec.toNat_add, hone]
  omega

theorem cell_fits_bmp : s.byteCount.toNat + s.cellBytes ≤ s.params.bmpCap := by
  have hfits := (h.atlasOpen ha).fitsBmp
  have hfilled := (h.atlasOpen ha).filled
  have := Nat.mul_le_mul_right s.cellBytes (cellIndex_lt h ha hn)
  rw [Nat.succ_mul] at this
  omega

theorem cell_fits_atlas : s.cellIndex * s.height * s.padw + s.height * s.padw ≤ s.params.atlasCap := by
  refine Nat.le_trans ?_ (h.atlasOpen ha).fitsAtlas
  have := Nat.mul_le_mul_right (s.height * s.padw) (cellIndex_lt h ha hn)
  rw [Nat.succ_mul] at this
  calc s.cellIndex * s.height * s.padw + s.height * s.padw
      = s.cellIndex * (s.height * s.padw) + s.height * s.padw := by rw [Nat.mul_assoc]
    _ ≤ s.op.nCodes * (s.height * s.padw) := this
    _ = s.padw * s.height * s.op.nCodes := by rw [Nat.mul_comm, Nat.mul_comm s.height]

end bounds

/-! ### The two arms -/

theorem cellPlace_eq (s : State) (r c : Nat) :
    cellPlace s r c = s.cellIndex * s.height * s.padw + r * s.padw + c := by
  rw [cellPlace, Nat.add_mul]

theorem cellWrite_rendered {s : State} (h : Inv s) (ha : s.status.atlasActive = true)
    (hn : s.nextCode.toNat ≤ s.op.rangeEnd.toNat) (hr : s.op.rset s.nextCode.toNat = true)
    {d : PackDepth} (hd : s.layout.layoutBd.toNat = d.depth.bits) {x : List Byte}
    (hx : x.length = s.sampleCount) :
    CellWrite s (packImage d s.width s.height s.padw x)
      (previewRows s.padw s.width s.height (s.cellIndex * s.height * s.padw) x s.atlas) := by
  have hvalid := (h.atlasOpen ha).layout.1
  have hwp := width_le_padw h.layout hvalid hd
  have houtside : ∀ a, (∀ r c, r < s.height → c < s.width → a ≠ cellPlace s r c) →
      (previewRows s.padw s.width s.height (s.cellIndex * s.height * s.padw) x s.atlas).get? a =
        s.atlas.get? a :=
    fun a hout => get?_previewRows_outside fun r c hr hc => by
      rw [← cellPlace_eq]; exact hout r c hr hc
  exact
    { length := length_packImage_layout h.layout hvalid hd hx
      wf := wf_previewRows (h.buffers .atlas).1
      bounded := bounded_previewRows hwp (h.buffers .atlas).2 (cell_fits_atlas h ha hn)
      outside := houtside
      written := fun a hb => by
        by_cases hin : ∃ r c, r < s.height ∧ c < s.width ∧ a = cellPlace s r c
        · obtain ⟨r, c, hr, hc, rfl⟩ := hin
          rw [cellPlace_eq, get?_previewRows_inside hwp hx hr hc]
          exact ⟨_, List.getElem?_eq_getElem (by rw [hx]; exact place_lt hr hc)⟩
        · rw [houtside a fun r c hr hc heq => hin ⟨r, c, hr, hc, heq⟩]
          exact hb
      missing := fun hr' => by simp [hr] at hr' }

theorem cellWrite_missing {s : State} (h : Inv s) :
    CellWrite s (List.replicate s.cellBytes 0) s.atlas where
  length := List.length_replicate
  wf := (h.buffers .atlas).1
  bounded := (h.buffers .atlas).2
  outside _ _ := rfl
  written _ hb := hb
  missing _ := ⟨fun j hj => by rw [List.getElem?_replicate, if_pos hj], rfl⟩

/-- A CELL that completes is an `emitCell`, after some draws. -/
theorem exists_cellWrite {s u : State} (h : Inv s) (heff : Effect s .cell u) :
    ∃ v m n, CellWrite s v m ∧ u = emitCell v m (drawn n s) := by
  cases heff with
  | rendered d hd ha hn hr hsrc =>
    exact ⟨_, _, _, cellWrite_rendered h ha hn hr hd (length_memRead _ _ _ _),
      emitRendered_drawn d _ _ s⟩
  | missing ha hn hr => exact ⟨_, _, 0, cellWrite_missing h, rfl⟩

/-- CELL completes only in an open atlas, before the last code. -/
theorem active_of_cell {s u : State} (heff : Effect s .cell u) :
    s.status.atlasActive = true ∧ s.nextCode.toNat ≤ s.op.rangeEnd.toNat := by
  cases heff with
  | rendered _ _ ha hn _ _ => exact ⟨ha, hn⟩
  | missing ha hn _ => exact ⟨ha, hn⟩

/-! ### The invariant -/

section emit
variable {s : State} {v : List Byte} {m : Memory}

theorem get?_bmp_emitCell (a : Nat) :
    (emitCell v m s).bmp.get? a =
      if s.byteCount.toNat ≤ a ∧ a < s.byteCount.toNat + v.length then v[a - s.byteCount.toNat]?
      else s.bmp.get? a :=
  get?_bmp_append v s a

variable (h : Inv s) (ha : s.status.atlasActive = true)
  (hn : s.nextCode.toNat ≤ s.op.rangeEnd.toNat) (hw : CellWrite s v m)
include h ha hn

theorem toNat_nextCode_emitCell : (emitCell v m s).nextCode.toNat = s.nextCode.toNat + 1 :=
  toNat_advanceCode (s := s) h ha hn

theorem cellIndex_emitCell : (emitCell v m s).cellIndex = s.cellIndex + 1 := by
  have hstart : s.op.rangeStart.toNat ≤ s.nextCode.toNat := (h.atlasOpen ha).next.1
  have hnext := toNat_nextCode_emitCell (v := v) (m := m) h ha hn
  unfold State.cellIndex
  rw [hnext]
  exact Nat.succ_sub hstart

include hw

theorem byteCount_emitCell :
    (emitCell v m s).byteCount.toNat = s.byteCount.toNat + s.cellBytes := by
  have hfits : s.byteCount.toNat + v.length ≤ s.params.bmpCap := by
    rw [hw.length]; exact cell_fits_bmp h ha hn
  rw [← hw.length]
  exact toNat_append_byteCount h.params hfits

omit hn in
/-- The missing cells emitted so far, the new one included, are zero (R126). -/
theorem missing_emitCell {k j : Nat} (hk : k < s.cellIndex + 1)
    (hr : s.op.rset (s.op.rangeStart.toNat + k) = false) (hj : j < s.cellBytes) :
    (emitCell v m s).bmp.get? (s.atlasBase.toNat + k * s.cellBytes + j) = some 0 := by
  have hopen := h.atlasOpen ha
  have hfilled := hopen.filled
  rw [get?_bmp_emitCell, hw.length]
  obtain hlt | rfl := Nat.lt_succ_iff_lt_or_eq.1 hk
  · have := place_lt hlt hj
    rw [Nat.mul_comm s.cellBytes] at this
    rw [if_neg (by omega)]
    exact hopen.missing k j hlt hr hj
  · have hcode : s.op.rangeStart.toNat + s.cellIndex = s.nextCode.toNat :=
      Nat.add_sub_of_le hopen.next.1
    rw [hcode] at hr
    rw [if_pos (by omega), ← hfilled, Nat.add_sub_cancel_left]
    exact (hw.missing hr).1 j hj

omit hn in
/-- The padding columns of the preview stay zero (R127). -/
theorem padding_emitCell {row col : Nat} (hrow : row < s.height * s.op.nCodes)
    (hwidth : s.width ≤ col) (hcol : col < s.padw) : m.get? (row * s.padw + col) = some 0 := by
  rw [hw.outside]
  · exact (h.atlasOpen ha).padding row col hrow hwidth hcol
  · intro r c _ hc heq
    have := (row_col_unique hcol (by omega) heq).2
    omega

omit hn in
/-- The preview of the missing cells and of those to come stays zero (R127). -/
theorem unlit_emitCell {k j : Nat} (hk : k < s.op.nCodes)
    (hunlit : s.cellIndex + 1 ≤ k ∨ s.op.rset (s.op.rangeStart.toNat + k) = false)
    (hj : j < s.height * s.padw) : m.get? (k * s.height * s.padw + j) = some 0 := by
  have hopen := h.atlasOpen ha
  have hold : s.atlas.get? (k * s.height * s.padw + j) = some 0 :=
    hopen.unlit k j hk (hunlit.imp_left Nat.le_of_succ_le) hj
  by_cases hkc : k = s.cellIndex
  · obtain hlt | hr := hunlit
    · omega
    · have hcode : s.op.rangeStart.toNat + k = s.nextCode.toNat := by
        rw [hkc]; exact Nat.add_sub_of_le hopen.next.1
      rw [hcode] at hr
      rwa [(hw.missing hr).2]
  · rw [hw.outside, hold]
    obtain ⟨d, hd⟩ := exists_packDepth h.layout hopen.layout.1 hopen.layout.2
    have hwp := width_le_padw h.layout hopen.layout.1 hd
    intro r c hr hc heq
    have hplace := place_lt hr (Nat.lt_of_lt_of_le hc hwp)
    rw [Nat.mul_comm s.padw] at hplace
    rw [cellPlace_eq, Nat.mul_assoc, Nat.mul_assoc, Nat.add_assoc] at heq
    exact hkc (row_col_unique hj hplace heq).1

theorem atlasOpen_emitCell : AtlasOpen (emitCell v m s) := by
  have hopen := h.atlasOpen ha
  have hindex := cellIndex_emitCell (v := v) (m := m) h ha hn
  have hnext := toNat_nextCode_emitCell (v := v) (m := m) h ha hn
  exact
    { layout := hopen.layout
      notDone := hopen.notDone
      range := hopen.range
      nonempty := hopen.nonempty
      subset := hopen.subset
      geometry := hopen.geometry
      next := by
        rw [hnext]
        exact ⟨Nat.le_succ_of_le hopen.next.1, Nat.succ_le_succ hn⟩
      filled := by
        rw [byteCount_emitCell h ha hn hw, hindex, Nat.succ_mul, ← Nat.add_assoc]
        exact congrArg (· + s.cellBytes) hopen.filled
      fitsBmp := hopen.fitsBmp
      fitsAtlas := hopen.fitsAtlas
      missing := fun k j hk hr hj => missing_emitCell h ha hw (hindex ▸ hk) hr hj
      preview := fun a hlt => hw.written a (hopen.preview a hlt)
      padding := fun row col hrow hwidth hcol => padding_emitCell h ha hw hrow hwidth hcol
      unlit := fun k j hk hunlit hj => unlit_emitCell h ha hw hk (hindex ▸ hunlit) hj }

theorem buffersOk_emitCell : BuffersOk (emitCell v m s) := by
  have hfits : s.byteCount.toNat + v.length ≤ s.params.bmpCap := by
    rw [hw.length]; exact cell_fits_bmp h ha hn
  have happend := buffersOk_append h.buffers hfits
  intro b
  cases b with
  | atlas => exact ⟨hw.wf, hw.bounded⟩
  | src => exact happend .src
  | idx => exact happend .idx
  | bmp => exact happend .bmp
  | met => exact happend .met

theorem inv_emitCell : Inv (emitCell v m s) := by
  have hfits : s.byteCount.toNat + v.length ≤ s.params.bmpCap := by
    rw [hw.length]; exact cell_fits_bmp h ha hn
  obtain ⟨hcap, hbase, -, hwritten⟩ := countsOk_append h.counts h.params hfits
  have h127 := ((rangeLegal_iff _).1 (h.atlasOpen ha).range).2
  exact
    { params := h.params
      buffers := buffersOk_emitCell h ha hn hw
      faultRecord := h.faultRecord
      layout := h.layout
      counts := ⟨hcap, hbase, by rw [toNat_nextCode_emitCell h ha hn]; omega, hwritten⟩
      atlasOpen := fun _ => atlasOpen_emitCell h ha hn hw
      atlasDone := h.atlasDone
      metrics := h.metrics }

end emit

end Sys2Proof.Machine
end

section
/-! The invariant along the block's steps, and what it gives: packed bytes stay, no step stops, and every
latched command is stepped. -/

namespace Sys2Proof.Machine

/-! ### Every step keeps the invariant -/

theorem length_pack_memRead (d : PackDepth) (off n : Nat) (s : State) :
    (pack d (memRead .idx off n s)).length = packedLength d n := by
  rw [length_pack, length_memRead]

theorem inv_cell {s u : State} (h : Inv s) (heff : Effect s .cell u) : Inv u := by
  obtain ⟨v, m, n, hw, rfl⟩ := exists_cellWrite h heff
  obtain ⟨ha, hn⟩ := active_of_cell heff
  exact inv_of_view_eq (inv_emitCell h ha hn hw) rfl

/-- A command executed with no error recorded, or CLEAR, keeps the invariant in its effect. -/
theorem inv_effect {i : Instr} {s u : State} (h : Inv s)
    (hd : s.status.err = false ∨ i = .clear) (heff : Effect s i u) : Inv u := by
  cases heff with
  | nop => exact h
  | clear => exact inv_clearRun h
  | layout d ha => exact inv_setLayout h ha d
  | quant d hsrc hidx =>
    refine inv_memWrite (inv_drawn h _) (.inr rfl) ?_
    rw [List.length_map, length_memRead]
    exact hidx
  | pack d ha hidx hbmp =>
    refine inv_append (inv_drawn h _) ha ?_
    rw [length_pack_memRead]
    exact hbmp
  | bitmap d hbd ha hv hsrc hbmp =>
    refine inv_append (inv_drawn h _) ha ?_
    rw [length_packImage_layout h.layout hv hbd (length_memRead _ _ _ _)]
    exact hbmp
  | atlasBegin d hbd ha hv hr he hs hg hbmp hatlas =>
    exact inv_openAtlas h (hd.resolve_right nofun) hbd hv hr he hs hg hbmp hatlas
  | rendered d hbd ha hn hr hsrc => exact inv_cell h (.rendered d hbd ha hn hr hsrc)
  | missing ha hn hr => exact inv_cell h (.missing ha hn hr)
  | atlasEnd ha hlast => exact inv_closeAtlas h (hd.resolve_right nofun) ha
  | metrics hv hf hr he hs => exact inv_emitMetrics h (hd.resolve_right nofun) hf

theorem inv_exec {i : Instr} {s t : State} (h : Inv s) (hd : s.status.err = false ∨ i = .clear)
    (hexec : exec i s = .next t) : Inv t := by
  obtain ⟨c, -, n, rfl⟩ | ⟨u, hu, rfl⟩ := exec_cases hexec
  · exact inv_faultEntry (inv_drawn h n) c
  · exact inv_complete (inv_effect h hd hu)

theorem inv_engineStep {s t : State} (h : Inv s) (hstep : engineStep s = .next t) : Inv t := by
  obtain ⟨-, -, rfl⟩ | ⟨hd, ⟨e, -, rfl⟩ | ⟨i, hi, hexec⟩⟩ := engineStep_cases hstep
  · exact inv_of_view_eq h rfl
  · exact inv_faultEntry h _
  · exact inv_exec h (err_or_clear_of_decode hi hd) hexec

theorem inv_step {s t : State} (h : Inv s) (hstep : step s = .next t) : Inv t := by
  obtain ⟨-, -, rfl⟩ | ⟨rest, -, -, rfl⟩ | ⟨-, u, hu, ⟨rfl, -⟩ | ⟨rest, -, rfl⟩⟩ | ⟨rest, -, rfl⟩ |
    ⟨a, rest, off, -, -, -, rfl⟩ := step_cases hstep
  · exact h
  · exact inv_popInput h
  · exact inv_engineStep h hu
  · exact inv_engineStep (inv_popInput h) hu
  · exact inv_resetBlock (inv_popInput h)
  · exact inv_completeAccess h off a

/-- Settles O15: a step is a wait, an idle turn, an engine step, a reset or an access, and each keeps
the invariant. -/
theorem stepKeepsTheInvariant : Obligations.StepKeepsTheInvariant :=
  fun _ _ => inv_step

/-! ### Packed bytes -/

/-- BMP as an append buffer, from `s` to `t`: the bytes below BYTE_COUNT stay, and it does not fall. -/
def Appends (s t : State) : Prop :=
  s.byteCount.toNat ≤ t.byteCount.toNat ∧
    ∀ a, a < s.byteCount.toNat → t.bmp.get? a = s.bmp.get? a

theorem appends_of_eq {s t : State} (hcount : t.byteCount = s.byteCount) (hbmp : t.bmp = s.bmp) :
    Appends s t :=
  ⟨hcount ▸ Nat.le_refl _, fun _ _ => by rw [hbmp]⟩

theorem appends_append {v : List Byte} {s : State} (hP : s.params.Legal)
    (hv : s.byteCount.toNat + v.length ≤ s.params.bmpCap) : Appends s (append v s) := by
  refine ⟨?_, fun a ha => ?_⟩
  · rw [toNat_append_byteCount hP hv]
    exact Nat.le_add_right _ _
  · rw [get?_bmp_append, if_neg (by omega)]

theorem appends_cell {s u : State} (h : Inv s) (heff : Effect s .cell u) : Appends s u := by
  obtain ⟨v, m, n, hw, rfl⟩ := exists_cellWrite h heff
  obtain ⟨ha, hn⟩ := active_of_cell heff
  refine appends_append (s := s) (v := v) h.params ?_
  rw [hw.length]
  exact cell_fits_bmp h ha hn

/-- Every command but CLEAR only appends to BMP (20_memory.md R59). -/
theorem appends_effect {i : Instr} {s u : State} (h : Inv s) (hi : i ≠ .clear)
    (heff : Effect s i u) : Appends s u := by
  cases heff with
  | clear => exact absurd rfl hi
  | pack d ha hidx hbmp =>
    refine appends_append (s := drawn _ s) h.params ?_
    rw [length_pack_memRead]
    exact hbmp
  | bitmap d hbd ha hv hsrc hbmp =>
    refine appends_append (s := drawn _ s) h.params ?_
    rw [length_packImage_layout h.layout hv hbd (length_memRead _ _ _ _)]
    exact hbmp
  | rendered d hbd ha hn hr hsrc => exact appends_cell h (.rendered d hbd ha hn hr hsrc)
  | missing ha hn hr => exact appends_cell h (.missing ha hn hr)
  | _ => exact appends_of_eq rfl rfl

/-- The engine's step appends to BMP, or it is CLEAR, which leaves BMP and sets BYTE_COUNT to 0. -/
theorem appends_or_clear_of_engineStep {s t : State} (h : Inv s) (hstep : engineStep s = .next t) :
    Appends s t ∨ (s.cmdLatch = 0x00000001#32 ∧ t.byteCount = 0 ∧ t.bmp = s.bmp) := by
  obtain ⟨-, -, rfl⟩ | ⟨-, ⟨e, -, rfl⟩ | ⟨i, hi, hexec⟩⟩ := engineStep_cases hstep
  · exact .inl (appends_of_eq rfl rfl)
  · exact .inl (appends_of_eq rfl rfl)
  · obtain ⟨c, -, n, rfl⟩ | ⟨u, hu, rfl⟩ := exec_cases hexec
    · exact .inl (appends_of_eq rfl rfl)
    · by_cases hclear : i = .clear
      · subst hclear
        cases hu
        exact .inr ⟨decode_eq_clear_iff.1 hi, rfl, rfl⟩
      · exact .inl (appends_effect (u := u) h hclear hu)

/-- Settles O13: the host writes no byte of BMP, and of the commands only CLEAR does not append. -/
theorem packedBytesAreAppendOnly : Obligations.PackedBytesAreAppendOnly := by
  intro s t h hstep hreset
  obtain ⟨rest, hin, -⟩ | ⟨hb, l, hl⟩ | hsame := step_reset_engine_or_host hstep
  · exact absurd hin (hreset rest)
  · obtain ⟨hle, hbytes⟩ | ⟨hw, hzero, hbmp⟩ :=
      appends_or_clear_of_engineStep (s := { s with inputs := l }) (inv_of_view_eq h rfl) hl
    · exact ⟨hbytes, fun hlt => absurd hlt (Nat.not_lt.2 hle)⟩
    · exact ⟨fun a _ => by rw [hbmp], fun _ => ⟨hb, hw, hzero⟩⟩
  · obtain ⟨hle, hbytes⟩ := appends_of_eq hsame.byteCount hsame.bmp
    exact ⟨hbytes, fun hlt => absurd hlt (Nat.not_lt.2 hle)⟩

/-! ### No step stops -/

/-- The answer is a next state. -/
def GoesOn (r : Result) : Prop := ∃ t, r = .next t

theorem goesOn_next (t : State) : GoesOn (.next t) := ⟨t, rfl⟩

theorem goesOn_ite {c : Prop} [Decidable c] {r r' : Result} (h : c → GoesOn r)
    (h' : ¬c → GoesOn r') : GoesOn (if c then r else r') := by
  split
  · next hc => exact h hc
  · next hc => exact h' hc

theorem goesOn_execLayout (d : Nat) (s : State) : GoesOn (execLayout d s) := by
  unfold execLayout
  split
  · exact goesOn_next _
  · split <;> exact goesOn_next _

theorem goesOn_execQuant (d : Nat) (s : State) : GoesOn (execQuant d s) := by
  unfold execQuant
  split
  · exact goesOn_next _
  · exact goesOn_ite (fun _ => goesOn_next _) fun _ => goesOn_next _

theorem goesOn_execPack (d : Nat) (s : State) : GoesOn (execPack d s) := by
  unfold execPack
  split
  · exact goesOn_next _
  · split
    · exact goesOn_next _
    · exact goesOn_ite (fun _ => goesOn_next _) fun _ =>
        goesOn_ite (fun _ => goesOn_next _) fun _ => goesOn_next _

theorem goesOn_execBitmap (s : State) : GoesOn (execBitmap s) := by
  unfold execBitmap
  iterate 2
    refine goesOn_ite (fun _ => goesOn_next _) fun _ => ?_
  split
  · exact goesOn_next _
  · exact goesOn_ite (fun _ => goesOn_next _) fun _ => goesOn_next _

theorem goesOn_execAtlasBegin (s : State) : GoesOn (execAtlasBegin s) := by
  unfold execAtlasBegin
  iterate 8
    refine goesOn_ite (fun _ => goesOn_next _) fun _ => ?_
  exact goesOn_next _

/-- A rendered CELL has a packer, since ATLAS_BEGIN checked the layout's depth (42_atlas.md R120). -/
theorem goesOn_execCell {s : State} (h : Inv s) : GoesOn (execCell s) := by
  unfold execCell
  refine goesOn_ite (fun _ => goesOn_next _) fun ha => ?_
  refine goesOn_ite (fun _ => goesOn_next _) fun _ => ?_
  have hopen := h.atlasOpen (by simpa using ha)
  obtain ⟨d, hd⟩ := exists_packDepth h.layout hopen.layout.1 hopen.layout.2
  rw [PackDepth.ofNat?_eq_some.2 hd]
  split
  · exact goesOn_ite (fun _ => goesOn_next _) fun _ => goesOn_next _
  · exact goesOn_next _

theorem goesOn_execAtlasEnd (s : State) : GoesOn (execAtlasEnd s) := by
  unfold execAtlasEnd
  iterate 2
    refine goesOn_ite (fun _ => goesOn_next _) fun _ => ?_
  exact goesOn_next _

theorem goesOn_execMetrics (s : State) : GoesOn (execMetrics s) := by
  unfold execMetrics
  iterate 5
    refine goesOn_ite (fun _ => goesOn_next _) fun _ => ?_
  exact goesOn_next _

theorem goesOn_exec {s : State} (h : Inv s) (i : Instr) : GoesOn (exec i s) := by
  cases i with
  | nop => exact goesOn_next _
  | clear => exact goesOn_next _
  | layout d => exact goesOn_execLayout d s
  | quant d => exact goesOn_execQuant d s
  | pack d => exact goesOn_execPack d s
  | bitmap => exact goesOn_execBitmap s
  | atlasBegin => exact goesOn_execAtlasBegin s
  | cell => exact goesOn_execCell h
  | atlasEnd => exact goesOn_execAtlasEnd s
  | metrics => exact goesOn_execMetrics s

theorem goesOn_engineStep {s : State} (h : Inv s) : GoesOn (engineStep s) := by
  unfold engineStep
  split
  · exact goesOn_next _
  · split
    · exact goesOn_next _
    · exact goesOn_exec h _

theorem goesOn_engineTurn {s : State} (h : Inv s) : GoesOn (engineTurn s) :=
  goesOn_ite (fun _ => goesOn_engineStep h) fun _ => goesOn_next s

theorem goesOn_accessTurn {s : State} (h : Inv s) {a : Access}
    (ha : InAperture s.params (.access a)) : GoesOn (accessTurn a s) := by
  rw [accessTurn, apertureOffset_of_inAperture ha]
  exact goesOn_ite (fun _ => goesOn_engineStep h) fun _ => goesOn_next _

theorem goesOn_step {s : State} (h : Inv s) (ha : ∀ e ∈ s.inputs, InAperture s.params e) :
    GoesOn (step s) := by
  unfold step nextTurn
  split
  · exact goesOn_engineTurn h
  · exact goesOn_engineTurn (inv_popInput h)
  · exact goesOn_next _
  · next a rest hin => exact goesOn_accessTurn h (ha _ (by simp [hin]))

/-- Settles O16: the only command that can stop is a CELL without a packer, which the invariant rules
out; and an access outside the aperture stops the step by name. -/
theorem theBlockNeverStops : Obligations.TheBlockNeverStops :=
  ⟨fun _ h ha => goesOn_step h ha, fun _ _ _ hin hap => step_outside_aperture hin hap⟩

/-! ### Every latched command is stepped -/

theorem busy_of_engineStep {s t : State} (h : engineStep s = .next t) : t.status.busy = false :=
  (engineStepCompletesFaultsOrDrops s t h).1

/-- The block runs from `s` in `n` steps to an idle state, and unless a reset is among the events that
state is the engine's step on the latched word. -/
def SteppedIn (n : Nat) (s : State) : Prop :=
  ∃ t, core.run n s = .next t ∧ t.status.busy = false ∧
    (HostEvent.reset ∉ s.inputs → ∃ rest resp,
      engineStep { s with inputs := rest, responses := resp } = .next t)

theorem run_succ {s t : State} (h : step s = .next t) (n : Nat) : core.run (n + 1) s = core.run n t := by
  have h' : core.step s = .next t := h
  simp only [Host.Core.run, h']

/-- One step is enough where it is the engine's. -/
theorem steppedIn_one {s : State} (h : Inv s) {l : List HostEvent}
    (hstep : step s = engineStep { s with inputs := l }) : SteppedIn 1 s := by
  obtain ⟨t, ht⟩ := goesOn_engineStep (s := { s with inputs := l }) (inv_of_view_eq h rfl)
  exact ⟨t, run_succ (hstep.trans ht) 0, busy_of_engineStep ht, fun _ => ⟨l, s.responses, ht⟩⟩

/-- A step that only uses up an event and gives a response puts the rest off by one. -/
theorem steppedIn_succ {s : State} {e : HostEvent} {rest : List HostEvent} {resp : List Response}
    {n : Nat} (hin : s.inputs = e :: rest)
    (hstep : step s = .next { s with inputs := rest, responses := resp })
    (h : SteppedIn n { s with inputs := rest, responses := resp }) : SteppedIn (n + 1) s := by
  obtain ⟨t, hrun, hb, hengine⟩ := h
  refine ⟨t, (run_succ hstep n).trans hrun, hb, fun hreset => hengine fun hmem => hreset ?_⟩
  rw [hin]
  exact List.mem_cons_of_mem e hmem

/-- A latched command is stepped within one step more than there are events: each event that does not
let the engine step, or discard the command, is used up (20_memory.md R62). -/
theorem exists_steppedIn {s : State} (h : Inv s) (hb : s.status.busy = true)
    (hap : ∀ e ∈ s.inputs, InAperture s.params e) : ∃ n ≤ s.inputs.length + 1, SteppedIn n s := by
  generalize hin : s.inputs = events
  induction events generalizing s with
  | nil => exact ⟨1, by simp, steppedIn_one h (step_of_no_event hin hb)⟩
  | cons e rest ih =>
    rw [hin] at hap
    cases e with
    | idle => exact ⟨1, by simp, steppedIn_one h (step_of_idle hin hb)⟩
    | reset =>
      exact ⟨1, by simp, _, run_succ (step_of_reset hin) 0, rfl, fun hno => by simp [hin] at hno⟩
    | access a =>
      have ha : InAperture s.params (.access a) := hap _ List.mem_cons_self
      cases hc : completesWhileBusy (a.addr - s.params.blockBase) a with
      | false => exact ⟨1, by simp, steppedIn_one h (step_of_held hin ha hb hc)⟩
      | true =>
        obtain ⟨r, hr⟩ := completeAccess_whileBusy hc s
        rw [hin, List.tail_cons] at hr
        obtain ⟨n, hn, hstepped⟩ := ih
          (s := { s with inputs := rest, responses := s.responses ++ [r] })
          (inv_of_view_eq h rfl) hb (fun e he => hap e (List.mem_cons_of_mem _ he)) rfl
        refine ⟨n + 1, Nat.succ_le_succ hn, steppedIn_succ hin ?_ hstepped⟩
        rw [step_of_completed hin ha (.inr hc), hr]

/-- Settles O17: both parts are `exists_steppedIn`. -/
theorem latchedCommandsAreEventuallyStepped : Obligations.LatchedCommandsAreEventuallyStepped := by
  intro s h hb hap
  obtain ⟨n, hn, t, hrun, hidle, hengine⟩ := exists_steppedIn h hb hap
  refine ⟨⟨n, t, hn, hrun, hidle⟩, fun hreset => ?_⟩
  obtain ⟨rest, resp, hstep⟩ := hengine hreset
  exact ⟨n, t, rest, resp, hn, hstep, hrun, hidle⟩

end Sys2Proof.Machine
end

section
/-! The padded width (40_layout.md R91, R93, R94) and the quantizer (41_quantize_pack.md R101) over the
naturals. -/

namespace Sys2Proof.Machine

/-! ### The padded width -/

/-- Settles O19: at each depth the padded width is the next multiple of 8, 2 or 1. -/
theorem paddedWidthIsTheLeastByteAlignedWidth :
    Obligations.PaddedWidthIsTheLeastByteAlignedWidth := by
  intro w d hd
  obtain ⟨depth, rfl⟩ := mem_depths_iff.1 hd
  refine ⟨le_paddedWidth w depth, ?_, fun p hwp hp => ?_, ?_, fun p => ?_⟩
  · have := paddedWidth_mul_bits w depth
    omega
  all_goals
    cases depth <;>
      simp only [Depth.bits, paddedWidth_one, paddedWidth_four, paddedWidth_eight] at * <;> omega

/-- The padding is less than the pixels of one byte (40_layout.md R93). -/
theorem paddedWidth_sub_lt (w : Nat) (d : Depth) : paddedWidth w d.bits - w < 8 / d.bits := by
  cases d <;> simp only [Depth.bits, paddedWidth_one, paddedWidth_four, paddedWidth_eight] <;> omega

/-- Settles O20: a LAYOUT that completes leaves the padded width and linestride of its depth. -/
theorem layoutResultsMeetTheirInvariants : Obligations.LayoutResultsMeetTheirInvariants := by
  intro d s t h _ ht
  obtain ⟨u, hu, rfl⟩ := effect_of_exec h ht
  cases hu with
  | layout depth ha =>
    have hbits := paddedWidth_mul_bits s.op.cfgWidth.toNat depth
    rw [complete_layout, setLayout_layout, toNat_padw_layoutRegsOf, toNat_stride_layoutRegsOf]
    exact ⟨by omega, le_paddedWidth _ _, by omega, paddedWidth_sub_lt _ _, paddedWidth_le _ _,
      lineStride_le _ _⟩

/-! ### The quantizer -/

/-- The quantizer over the naturals (41_quantize_pack.md R100). -/
theorem toNat_quantize (d : Depth) (x : Byte) :
    (quantize d x).toNat =
      match d with
      | .one => x.toNat / 128
      | .four => (x.toNat * 15 + 135) / 256
      | .eight => x.toNat := by
  cases d with
  | one => exact toNat_quantize_one x
  | four => exact toNat_quantize_four x
  | eight => rfl

theorem quantize_lt (d : Depth) (x : Byte) : (quantize d x).toNat < 2 ^ d.bits := by
  have := x.isLt
  rw [toNat_quantize]
  cases d <;> simp only [Depth.bits] <;> omega

theorem quantize_zero (d : Depth) : quantize d 0 = 0 := by
  cases d <;> rfl

/-- Settles O22: at each depth the formula over the naturals, for samples up to 255, and the ends by
evaluation. -/
theorem quantizerRoundsToNearest : Obligations.QuantizerRoundsToNearest := by
  intro d x y
  have hx := x.isLt
  refine ⟨quantize_lt d x, fun hxy => ?_, quantize_zero d, ?_, ?_, ?_⟩
  · rw [toNat_quantize, toNat_quantize]
    cases d <;> simp only <;> omega
  · cases d <;> rfl
  all_goals
    rw [toNat_quantize]
    cases d <;> simp only [Depth.bits] <;> omega

end Sys2Proof.Machine
end

section
/-! QUANT and PACK (41_quantize_pack.md R102, R105, R107): their faults, and the bytes they write. -/

namespace Sys2Proof.Machine

/-! ### Writes and Appends by index -/

/-- Byte i of a write. -/
theorem get?_write_add (m : Memory) (off : Nat) {v : List Byte} {i : Nat} (h : i < v.length) :
    (m.write off v).get? (off + i) = v[i]? := by
  rw [get?_write, if_pos ⟨by omega, by omega⟩, Nat.add_sub_cancel_left]

/-- `t` is the completion of a command that appended the `n` bytes `v` to BMP in state `s`, at most some
draws used up (20_memory.md R59). -/
structure Appended (s : State) (v : List Byte) (n : Nat) (t : State) : Prop where
  length : v.length = n
  count : t.byteCount.toNat = s.byteCount.toNat + n
  inside : ∀ i, i < n → t.bmp.get? (s.byteCount.toNat + i) = v[i]?
  outside : ∀ a, a < s.byteCount.toNat ∨ s.byteCount.toNat + n ≤ a → t.bmp.get? a = s.bmp.get? a
  frame : t = { s with
    bmp := t.bmp, byteCount := t.byteCount, draws := t.draws,
    status := { s.status with busy := false }, irqPend := { s.irqPend with done := true } }

theorem appended_complete {s : State} (hP : s.params.Legal) {v : List Byte} {n : Nat}
    (hlen : v.length = n) (hv : s.byteCount.toNat + n ≤ s.params.bmpCap) (k : Nat) :
    Appended s v n (complete (append v (drawn k s))) := by
  subst hlen
  exact
    { length := rfl
      count := toNat_append_byteCount (s := drawn k s) hP hv
      inside := fun _ hi => get?_write_add s.bmp s.byteCount.toNat hi
      outside := fun a ha => get?_write_outside s.bmp s.byteCount.toNat v a ha
      frame := rfl }

/-- The bytes of an Append are written. -/
theorem Appended.written {s t : State} {v : List Byte} {n : Nat} (h : Appended s v n t) {i : Nat}
    (hi : i < n) : ∃ b, t.bmp.get? (s.byteCount.toNat + i) = some b :=
  ⟨_, (h.inside i hi).trans (List.getElem?_eq_getElem (h.length.symm ▸ hi))⟩

/-! ### QUANT -/

theorem exec_quant_of_notMem {d : Nat} (hd : d ∉ [1, 4, 8]) (s : State) :
    exec (.quant d) s = .next (faultEntry .unsupportedBitDepth s) := by
  simp [exec, execQuant, ofNat?_eq_none_of_notMem hd]

section quant
variable {s : State} (d : Depth)

theorem exec_quant_overflow (h : s.params.srcCap < s.op.srcOff.toNat + s.op.len.toNat ∨
      s.params.idxCap < s.op.idxOff.toNat + s.op.len.toNat) :
    exec (.quant d.bits) s = .next (faultEntry .bufferOverflow s) := by
  simp [exec, execQuant, ofNat?_bits, notBothInBounds (b := .src) (c := .idx) h]

theorem exec_quant_bits (hsrc : s.op.srcOff.toNat + s.op.len.toNat ≤ s.params.srcCap)
    (hidx : s.op.idxOff.toNat + s.op.len.toNat ≤ s.params.idxCap) :
    exec (.quant d.bits) s = .next (complete (memWrite .idx s.op.idxOff.toNat
      ((memRead .src s.op.srcOff.toNat s.op.len.toNat s).map (quantize d))
      (drawn s.op.len.toNat s))) := by
  simp [exec, execQuant, ofNat?_bits, bothInBounds (b := .src) (c := .idx) hsrc hidx]

end quant

/-- Settles O24: the depth is checked before the bounds, which are sums of naturals. -/
theorem quantFaults : Obligations.QuantFaults := by
  refine fun d s => ⟨fun hd => exec_quant_of_notMem hd s, fun hd hover => ?_⟩
  obtain ⟨depth, rfl⟩ := mem_depths_iff.1 hd
  exact exec_quant_overflow depth hover

/-- Settles O23: one write of the quantized samples to IDX. -/
theorem quantStoresTheIndices : Obligations.QuantStoresTheIndices := by
  intro d s hsrc hidx
  refine ⟨_, exec_quant_bits d hsrc hidx, ?_⟩
  generalize hv : (memRead .src s.op.srcOff.toNat s.op.len.toNat s).map (quantize d) = v
  have hlen : v.length = s.op.len.toNat := by rw [← hv, List.length_map, length_memRead]
  have hget : ∀ i, i < s.op.len.toNat →
      (s.idx.write s.op.idxOff.toNat v).get? (s.op.idxOff.toNat + i) = v[i]? :=
    fun i hi => get?_write_add _ _ (by omega)
  refine ⟨fun i x hi hx => ?_, fun i hi => ?_, fun a ha => ?_, rfl⟩
  · refine (hget i hi).trans ?_
    rw [← hv, List.getElem?_map, getElem?_memRead_written (b := .src) hi hx]
    rfl
  · have hi' : i < v.length := by omega
    refine ⟨v[i], (hget i hi).trans (List.getElem?_eq_getElem hi'), ?_⟩
    simp only [← hv, List.getElem_map]
    exact quantize_lt d _
  · exact get?_write_outside _ _ _ _ (by omega)

/-! ### PACK -/

/-- The numbers that are a depth of the packer (41_quantize_pack.md R105). -/
theorem mem_packDepths_iff {d : Nat} : d ∈ [4, 8] ↔ ∃ depth : PackDepth, d = depth.depth.bits := by
  constructor
  · intro h
    simp only [List.mem_cons, List.not_mem_nil, or_false] at h
    obtain rfl | rfl := h
    exacts [⟨.four, rfl⟩, ⟨.eight, rfl⟩]
  · rintro ⟨depth, rfl⟩
    cases depth <;> decide

theorem packDepth_ofNat?_bits (d : PackDepth) : PackDepth.ofNat? d.depth.bits = some d :=
  PackDepth.ofNat?_eq_some.2 rfl

theorem packDepth_ofNat?_of_notMem {d : Nat} (h : d ∉ [4, 8]) : PackDepth.ofNat? d = none :=
  PackDepth.ofNat?_eq_none.2 (by simpa using h)

theorem exec_pack_of_atlasActive {s : State} (h : s.status.atlasActive = true) (d : Nat) :
    exec (.pack d) s = .next (faultEntry .sequenceError s) :=
  if_pos h

section pack
variable {s : State} (ha : s.status.atlasActive = false)
include ha

theorem exec_pack_of_notMem {d : Nat} (hd : d ∉ [4, 8]) :
    exec (.pack d) s = .next (faultEntry .unsupportedBitDepth s) := by
  simp [exec, execPack, ha, packDepth_ofNat?_of_notMem hd]

theorem exec_pack_overflow (d : PackDepth)
    (h : s.params.idxCap < s.op.idxOff.toNat + s.op.len.toNat ∨
      s.params.bmpCap < s.byteCount.toNat + packedLength d s.op.len.toNat) :
    exec (.pack d.depth.bits) s = .next (faultEntry .bufferOverflow s) := by
  simp [exec, execPack, ha, packDepth_ofNat?_bits, notBothInBounds (b := .idx) (c := .bmp) h]

variable (d : PackDepth) (hidx : s.op.idxOff.toNat + s.op.len.toNat ≤ s.params.idxCap)
  (hbmp : s.byteCount.toNat + packedLength d s.op.len.toNat ≤ s.params.bmpCap)
include hidx hbmp

theorem exec_pack_indexRange
    (h : indexTooLarge d (memRead .idx s.op.idxOff.toNat s.op.len.toNat s) = true) :
    exec (.pack d.depth.bits) s =
      .next (faultEntry .indexRange (drawn s.op.len.toNat s)) := by
  simp [exec, execPack, ha, packDepth_ofNat?_bits, bothInBounds (b := .idx) (c := .bmp) hidx hbmp, h]

theorem exec_pack_bits
    (h : indexTooLarge d (memRead .idx s.op.idxOff.toNat s.op.len.toNat s) = false) :
    exec (.pack d.depth.bits) s =
      .next (complete (append (pack d (memRead .idx s.op.idxOff.toNat s.op.len.toNat s))
        (drawn s.op.len.toNat s))) := by
  simp [exec, execPack, ha, packDepth_ofNat?_bits, bothInBounds (b := .idx) (c := .bmp) hidx hbmp, h]

end pack

/-- The IndexRange condition (R107). -/
theorem indexTooLarge_four_iff {a : List Byte} :
    indexTooLarge .four a = true ↔ ∃ (i : Nat) (b : Byte), a[i]? = some b ∧ 15 < b.toNat := by
  simp only [indexTooLarge, List.any_eq_true, decide_eq_true_eq, List.mem_iff_getElem?]
  constructor
  · rintro ⟨b, ⟨i, hi⟩, hb⟩
    exact ⟨i, b, hi, hb⟩
  · rintro ⟨i, b, hi, hb⟩
    exact ⟨b, ⟨i, hi⟩, hb⟩

theorem indexTooLarge_four_eq_false {a : List Byte}
    (h : ∀ (i : Nat) (b : Byte), a[i]? = some b → b.toNat ≤ 15) : indexTooLarge .four a = false := by
  rw [← Bool.not_eq_true, indexTooLarge_four_iff]
  rintro ⟨i, b, hi, hb⟩
  have := h i b hi
  omega

/-- Settles O26: at 8 bits the packed bytes are the indices read. -/
theorem packEightAppendsTheIndices : Obligations.PackEightAppendsTheIndices := by
  intro s hP ha hidx hbmp
  have happ := appended_complete hP (length_memRead .idx s.op.idxOff.toNat s.op.len.toNat s) hbmp
    s.op.len.toNat
  refine ⟨_, exec_pack_bits ha .eight hidx hbmp rfl, happ.count, fun i x hi hx => ?_,
    fun i hi => happ.written hi, happ.outside, happ.frame⟩
  exact (happ.inside i hi).trans (getElem?_memRead_written (b := .idx) hi hx)

/-- Byte j of the packed nibbles of `n` indices of at most 15 (R105). -/
theorem toNat_getElem?_packNibbles {a : List Byte} {x : Nat → Byte} {n j : Nat} (hlen : a.length = n)
    (hx : ∀ i, i < n → a[i]? = some (x i) ∧ (x i).toNat ≤ 15) (hj : 2 * j < n) :
    ((packNibbles a)[j]?).map BitVec.toNat =
      some (16 * (x (2 * j)).toNat + if 2 * j + 1 < n then (x (2 * j + 1)).toNat else 0) := by
  obtain ⟨hhi, hhi15⟩ := hx _ hj
  rw [getElem?_packNibbles, hhi]
  simp only [Option.map_some, Option.some.injEq]
  split
  · next hlo =>
    obtain ⟨hlo, hlo15⟩ := hx _ hlo
    rw [hlo, Option.getD_some, toNat_packPair hhi15 hlo15]
  · rw [List.getElem?_eq_none (by omega), Option.getD_none, toNat_packPair hhi15 (by decide)]
    rfl

/-- Settles O27: the indices read are those written, none is above 15, and each packed byte is a pair of
them. -/
theorem packFourAppendsNibblePairs : Obligations.PackFourAppendsNibblePairs := by
  intro s x hP ha hidx hbmp hx
  generalize hread : memRead .idx s.op.idxOff.toNat s.op.len.toNat s = a
  have hlen : a.length = s.op.len.toNat := hread ▸ length_memRead _ _ _ _
  have hax : ∀ i, i < s.op.len.toNat → a[i]? = some (x i) ∧ (x i).toNat ≤ 15 :=
    fun i hi => ⟨hread ▸ getElem?_memRead_written hi (hx i hi).1, (hx i hi).2⟩
  have hsmall : indexTooLarge .four a = false := indexTooLarge_four_eq_false fun i b hb => by
    obtain ⟨hi, -⟩ := List.getElem?_eq_some_iff.1 hb
    obtain ⟨hxi, h15⟩ := hax i (hlen ▸ hi)
    rw [hxi] at hb
    exact Option.some.inj hb ▸ h15
  have hplen : (packNibbles a).length = (s.op.len.toNat + 1) / 2 := by
    rw [length_packNibbles, hlen]; rfl
  have happ := appended_complete hP hplen hbmp s.op.len.toNat
  refine ⟨_, exec_pack_bits ha .four hidx hbmp (hread.symm ▸ hsmall), ?_⟩
  rw [hread]
  refine ⟨happ.count, fun j hj => ?_, happ.outside, happ.frame⟩
  refine (congrArg (Option.map BitVec.toNat) (happ.inside j hj)).trans ?_
  exact toNat_getElem?_packNibbles hlen hax (by omega)

/-- Settles O28: the checks in order; past them PACK 4 faults exactly on an index above 15, which a
written one is whatever the others draw. -/
theorem packFaults : Obligations.PackFaults := by
  intro d s
  refine ⟨fun ha => exec_pack_of_atlasActive ha d, fun ha hd => exec_pack_of_notMem ha hd,
    fun ha hd hover => ?_, fun ha hidx hbmp => ?_⟩
  · obtain ⟨depth, rfl⟩ := mem_packDepths_iff.1 hd
    refine exec_pack_overflow ha depth ?_
    cases depth <;> exact hover
  · cases hlarge : indexTooLarge .four (memRead .idx s.op.idxOff.toNat s.op.len.toNat s) with
    | true =>
      exact ⟨_, exec_pack_indexRange ha .four hidx hbmp hlarge, .inl rfl, fun _ => rfl⟩
    | false =>
      refine ⟨_, exec_pack_bits ha .four hidx hbmp hlarge, .inr ⟨rfl, rfl⟩, ?_⟩
      rintro ⟨i, x, hi, hx, h15⟩
      have := indexTooLarge_four_iff.2 ⟨i, x, getElem?_memRead_written (b := .idx) hi hx, h15⟩
      rw [hlarge] at this
      cases this

end Sys2Proof.Machine
end

section
/-! BITMAP (41_quantize_pack.md R110, R111, R113): its faults, the bytes of a packed image under the
current layout, and that QUANT then PACK gives the same where no row is padded. -/

namespace Sys2Proof.Machine

/-! ### The bytes of a packed image -/

/-- Byte j of row r of the packed image of the samples `x` under the layout of `s` (R105, R110). -/
def imageByte (s : State) (x : Nat → Byte) (r j : Nat) : Nat :=
  if s.layout.layoutBd.toNat = 8 then (x (r * s.width + j)).toNat
  else 16 * (quantize .four (x (r * s.width + 2 * j))).toNat +
    if 2 * j + 1 < s.width then (quantize .four (x (r * s.width + 2 * j + 1))).toNat else 0

theorem imageByte_eight {s : State} (hd : s.layout.layoutBd.toNat = 8) (x : Nat → Byte) (r j : Nat) :
    imageByte s x r j = (x (r * s.width + j)).toNat :=
  if_pos hd

theorem imageByte_four {s : State} (hd : s.layout.layoutBd.toNat = 4) (x : Nat → Byte) (r j : Nat) :
    imageByte s x r j = 16 * (quantize .four (x (r * s.width + 2 * j))).toNat +
      if 2 * j + 1 < s.width then (quantize .four (x (r * s.width + 2 * j + 1))).toNat else 0 :=
  if_neg (by omega)

theorem getElem?_packImage_layout {s : State} (hl : LayoutOk s) (hv : s.status.layoutValid = true)
    {d : PackDepth} (hd : s.layout.layoutBd.toNat = d.depth.bits) {l : List Byte}
    (hlen : l.length = s.sampleCount) {x : Nat → Byte}
    (hx : ∀ i, i < s.sampleCount → l[i]? = some (x i)) {r j : Nat} (hr : r < s.height)
    (hj : j < s.stride) :
    ((packImage d s.width s.height s.padw l)[r * s.stride + j]?).map BitVec.toNat =
      some (imageByte s x r j) := by
  obtain ⟨hpadw, hstride, -⟩ := layout_at_depth hl hv hd
  have hbits := paddedWidth_mul_bits s.width d.depth
  rw [← hpadw, ← hstride] at hbits
  cases d with
  | eight =>
    rw [imageByte_eight hd]
    simp only [PackDepth.depth, Depth.bits, paddedWidth_eight] at hpadw hbits
    have hsp : s.stride = s.padw := by omega
    rw [hsp, getElem?_packImage_eight hlen (by omega) hr (show j < s.width by omega),
      hx _ (place_lt hr (by omega))]
    rfl
  | four =>
    rw [imageByte_four hd]
    simp only [PackDepth.depth, Depth.bits, paddedWidth_four] at hpadw hbits
    have hps : s.padw = 2 * s.stride := by omega
    have hjw : 2 * j < s.width := by omega
    rw [hps, getElem?_packImage_four hlen (by omega) hr hjw, hx _ (place_lt hr hjw)]
    simp only [Option.map_some, Option.some.injEq]
    split
    · next hlo =>
      rw [hx _ (place_lt hr hlo), Option.map_some, Option.getD_some,
        toNat_packPair (quantize_four_le _) (quantize_four_le _), Nat.add_assoc (r * s.width)]
    · rw [toNat_packPair (quantize_four_le _) (by decide)]
      rfl

/-! ### The faults -/

theorem exec_bitmap_of_atlasActive {s : State} (h : s.status.atlasActive = true) :
    exec .bitmap s = .next (faultEntry .sequenceError s) :=
  if_pos h

section bitmap
variable {s : State} (ha : s.status.atlasActive = false)
include ha

theorem exec_bitmap_noLayout (hv : s.status.layoutValid = false) :
    exec .bitmap s = .next (faultEntry .noLayout s) := by
  simp [exec, execBitmap, ha, hv]

variable (hv : s.status.layoutValid = true)
include hv

theorem exec_bitmap_of_notMem (hd : s.layout.layoutBd.toNat ∉ [4, 8]) :
    exec .bitmap s = .next (faultEntry .unsupportedBitDepth s) := by
  simp [exec, execBitmap, ha, hv, packDepth_ofNat?_of_notMem hd]

variable {d : PackDepth} (hd : s.layout.layoutBd.toNat = d.depth.bits)
include hd

theorem exec_bitmap_overflow (h : s.params.srcCap < s.op.srcOff.toNat + s.sampleCount ∨
      s.params.bmpCap < s.byteCount.toNat + s.cellBytes) :
    exec .bitmap s = .next (faultEntry .bufferOverflow s) := by
  simp [exec, execBitmap, ha, hv, PackDepth.ofNat?_eq_some.2 hd,
    notBothInBounds (b := .src) (c := .bmp) h]

theorem exec_bitmap_inBounds (hsrc : s.op.srcOff.toNat + s.sampleCount ≤ s.params.srcCap)
    (hbmp : s.byteCount.toNat + s.cellBytes ≤ s.params.bmpCap) :
    exec .bitmap s = .next (complete (append (packImage d s.width s.height s.padw
      (memRead .src s.op.srcOff.toNat s.sampleCount s)) (drawn s.sampleCount s))) := by
  simp [exec, execBitmap, ha, hv, PackDepth.ofNat?_eq_some.2 hd,
    bothInBounds (b := .src) (c := .bmp) hsrc hbmp]

/-- BITMAP in bounds appends the packed image of the samples it reads, STRIDE * h bytes. -/
theorem exec_bitmap_appends (hP : s.params.Legal) (hl : LayoutOk s)
    (hsrc : s.op.srcOff.toNat + s.sampleCount ≤ s.params.srcCap)
    (hbmp : s.byteCount.toNat + s.cellBytes ≤ s.params.bmpCap) :
    ∃ t, exec .bitmap s = .next t ∧
      Appended s (packImage d s.width s.height s.padw
        (memRead .src s.op.srcOff.toNat s.sampleCount s)) s.cellBytes t :=
  ⟨_, exec_bitmap_inBounds ha hv hd hsrc hbmp,
    appended_complete hP (length_packImage_layout hl hv hd (length_memRead _ _ _ _)) hbmp _⟩

end bitmap

/-- Settles O31: the checks in order. -/
theorem bitmapFaults : Obligations.BitmapFaults := by
  intro s
  refine ⟨exec_bitmap_of_atlasActive, exec_bitmap_noLayout, exec_bitmap_of_notMem,
    fun ha hv hd hover => ?_⟩
  obtain ⟨d, hd⟩ := mem_packDepths_iff.1 hd
  exact exec_bitmap_overflow ha hv hd hover

/-- Settles O29: the bytes of the appended image, where all the samples read are written. -/
theorem bitmapAppendsPaddedRows : Obligations.BitmapAppendsPaddedRows := by
  intro s x hP hl hv hd ha hsrc hbmp hx
  obtain ⟨d, hd⟩ := mem_packDepths_iff.1 hd
  obtain ⟨t, ht, happ⟩ := exec_bitmap_appends ha hv hd hP hl hsrc hbmp
  refine ⟨t, ht, happ.count, fun r j hr hj => ?_, happ.outside, happ.frame⟩
  rw [Nat.add_assoc, happ.inside _ (by rw [State.cellBytes]; exact place_lt hr hj)]
  exact getElem?_packImage_layout hl hv hd (length_memRead _ _ _ _)
    (fun i hi => getElem?_memRead_written (b := .src) hi (hx i hi)) hr hj

/-- Settles O30: the length of the image does not depend on the samples. -/
theorem bitmapCompletesOnUnwrittenSamples : Obligations.BitmapCompletesOnUnwrittenSamples := by
  intro s hP hl hv hd ha hsrc hbmp
  obtain ⟨d, hd⟩ := mem_packDepths_iff.1 hd
  obtain ⟨t, ht, happ⟩ := exec_bitmap_appends ha hv hd hP hl hsrc hbmp
  exact ⟨t, ht, happ.count, fun j hj => happ.written hj, happ.outside, happ.frame⟩

/-! ### BITMAP as QUANT then PACK -/

/-- Rows as wide as the padded width are not padded (R113). -/
theorem rowPad_self {w h : Nat} {q : List Byte} (hq : q.length = w * h) : rowPad w w h q = q := by
  induction h generalizing q with
  | zero => exact (List.length_eq_zero_iff.1 hq).symm
  | succ h ih =>
    rw [rowPad, ih (by rw [List.length_drop, hq, Nat.mul_succ, Nat.add_sub_cancel]), Nat.sub_self,
      List.replicate_zero, List.nil_append, List.take_append_drop]

theorem packImage_self {d : PackDepth} {w h : Nat} {x : List Byte} (hx : x.length = w * h) :
    packImage d w h w x = pack d (x.map (quantize d.depth)) := by
  rw [packImage, rowPad_self (by rwa [List.length_map])]

/-- The indices that the quantizer gives are in PACK's range. -/
theorem indexTooLarge_map_quantize (d : PackDepth) (x : List Byte) :
    indexTooLarge d (x.map (quantize d.depth)) = false := by
  cases d with
  | eight => rfl
  | four =>
    refine indexTooLarge_four_eq_false fun i b hb => ?_
    obtain ⟨y, -, rfl⟩ := List.mem_map.1 (List.mem_of_getElem? hb)
    exact quantize_four_le y

/-- What QUANT wrote to IDX is what PACK reads there. -/
theorem memRead_idx_memWrite (off : Nat) (v : List Byte) (s : State) :
    memRead .idx off v.length (complete (memWrite .idx off v s)) = v :=
  memRead_eq fun _ hi => get?_write_add s.idx off hi

/-- PACK right after QUANT, at the same depth, appends the packed quantized samples. -/
theorem exec_pack_after_quant {s : State} (ha : s.status.atlasActive = false) (d : PackDepth)
    {x : List Byte} (hx : x.length = s.op.len.toNat) (k : Nat)
    (hidx : s.op.idxOff.toNat + s.op.len.toNat ≤ s.params.idxCap)
    (hbmp : s.byteCount.toNat + packedLength d s.op.len.toNat ≤ s.params.bmpCap) :
    ∃ v, exec (.pack d.depth.bits) (complete (memWrite .idx s.op.idxOff.toNat
        (x.map (quantize d.depth)) (drawn k s))) = .next v ∧
      v.bmp = s.bmp.write s.byteCount.toNat (pack d (x.map (quantize d.depth))) ∧
      v.byteCount = BitVec.ofNat 32
        (s.byteCount.toNat + (pack d (x.map (quantize d.depth))).length) ∧
      v.status = { s.status with busy := false } := by
  have hread := memRead_idx_memWrite s.op.idxOff.toNat (x.map (quantize d.depth)) (drawn k s)
  rw [List.length_map, hx] at hread
  have hpack := exec_pack_bits (s := complete (memWrite .idx s.op.idxOff.toNat
    (x.map (quantize d.depth)) (drawn k s))) ha d hidx hbmp
    ((congrArg (indexTooLarge d) hread).trans (indexTooLarge_map_quantize d x))
  refine ⟨_, hpack, ?_⟩
  simp only [complete_op, memWrite_op, drawn_op, hread]
  exact ⟨rfl, rfl, rfl⟩

/-- Settles O32: where w = PADW the packed image is the packed quantized samples, which PACK reads back
from IDX. -/
theorem bitmapEqualsQuantThenPack : Obligations.BitmapEqualsQuantThenPack := by
  intro s x hP hl hv hd ha hpadw hlen hsrc hidx hbmp _
  obtain ⟨d, hd⟩ := mem_packDepths_iff.1 hd
  generalize hX : memRead .src s.op.srcOff.toNat s.op.len.toNat s = X
  have hXlen : X.length = s.op.len.toNat := hX ▸ length_memRead _ _ _ _
  have hcount : s.sampleCount = s.op.len.toNat := hlen.symm
  have hself : packImage d s.width s.height s.padw X = pack d (X.map (quantize d.depth)) := by
    rw [← hpadw, packImage_self (hXlen.trans hlen)]
  have hroom : packedLength d s.op.len.toNat = s.cellBytes := by
    rw [← length_packImage_layout hl hv hd (hXlen.trans hlen), hself, length_pack, List.length_map,
      hXlen]
  have hbitmap := exec_bitmap_inBounds ha hv hd (hcount.symm ▸ hsrc) hbmp
  have hquant := exec_quant_bits d.depth hsrc hidx
  rw [hcount, hX, hself] at hbitmap
  rw [hX] at hquant
  obtain ⟨v, hv, hvbmp, hvcount, hvstatus⟩ :=
    exec_pack_after_quant ha d hXlen s.op.len.toNat hidx (hroom.symm ▸ hbmp)
  rw [hd]
  exact ⟨_, _, v, hbitmap, hquant, hv, hvbmp, hvcount, hvstatus⟩

/-! ### The all-black image -/

theorem mem_rowPad {w p h : Nat} {q : List Byte} {b : Byte} (hb : b ∈ rowPad w p h q) :
    b ∈ q ∨ b = 0 := by
  induction h generalizing q with
  | zero => cases hb
  | succ h ih =>
    rw [rowPad, List.mem_append, List.mem_append] at hb
    obtain hb | hb | hb := hb
    · exact .inl (List.mem_of_mem_take hb)
    · exact .inr (List.eq_of_mem_replicate hb)
    · exact (ih hb).imp_left List.mem_of_mem_drop

theorem rowPad_zeros {w p h : Nat} (hwp : w ≤ p) :
    rowPad w p h (List.replicate (w * h) 0) = List.replicate (p * h) 0 := by
  refine List.eq_replicate_iff.2 ⟨length_rowPad List.length_replicate hwp, fun b hb => ?_⟩
  exact (mem_rowPad hb).elim List.eq_of_mem_replicate id

/-- Settles O37: quantizing, padding and packing zeros gives zeros, as many as the layout has bytes. -/
theorem missingCellEqualsBlackGlyph : Obligations.MissingCellEqualsBlackGlyph := by
  intro d w h
  have hlen := length_packImage (d := d) (x := List.replicate (w * h) 0) List.length_replicate rfl
  have hzeros : packImage d w h (paddedWidth w d.depth.bits) (List.replicate (w * h) 0) =
      List.replicate (packedLength d (paddedWidth w d.depth.bits * h)) 0 := by
    rw [packImage, List.map_replicate, quantize_zero, rowPad_zeros (le_paddedWidth w d.depth),
      pack_replicate_zero]
  rw [hzeros, List.length_replicate] at hlen
  rw [hzeros, hlen]

end Sys2Proof.Machine
end

section
/-! ATLAS_BEGIN (42_atlas.md R120, R121) and ATLAS_END (R130, R131): their faults in order, and their
completions. -/

namespace Sys2Proof.Machine

theorem rsetInRange_eq_false_iff (o : OperandRegs) :
    o.rsetInRange = false ↔ ∃ c, c < 128 ∧ o.rset c = true ∧
      ¬(o.rangeStart.toNat ≤ c ∧ c ≤ o.rangeEnd.toNat) := by
  rw [← Bool.not_eq_true, rsetInRange_iff]
  push Not
  rfl

theorem rangeLegal_eq_false_iff (o : OperandRegs) :
    o.rangeLegal = false ↔ ¬(o.rangeStart.toNat ≤ o.rangeEnd.toNat ∧ o.rangeEnd.toNat ≤ 127) := by
  rw [← Bool.not_eq_true, rangeLegal_iff]

/-! ### ATLAS_BEGIN -/

theorem exec_atlasBegin_of_atlasActive {s : State} (h : s.status.atlasActive = true) :
    exec .atlasBegin s = .next (faultEntry .sequenceError s) :=
  if_pos h

section atlasBegin
variable {s : State} (ha : s.status.atlasActive = false)
include ha

theorem exec_atlasBegin_noLayout (hv : s.status.layoutValid = false) :
    exec .atlasBegin s = .next (faultEntry .noLayout s) := by
  simp [exec, execAtlasBegin, ha, hv]

variable (hv : s.status.layoutValid = true)
include hv

theorem exec_atlasBegin_of_notMem (hd : s.layout.layoutBd.toNat ∉ [4, 8]) :
    exec .atlasBegin s = .next (faultEntry .unsupportedBitDepth s) := by
  simp [exec, execAtlasBegin, ha, hv, packDepth_ofNat?_of_notMem hd]

variable {d : PackDepth} (hd : s.layout.layoutBd.toNat = d.depth.bits)
include hd

theorem exec_atlasBegin_badRange (hr : s.op.rangeLegal = false) :
    exec .atlasBegin s = .next (faultEntry .badRange s) := by
  simp [exec, execAtlasBegin, ha, hv, PackDepth.ofNat?_eq_some.2 hd, hr]

variable (hr : s.op.rangeLegal = true)
include hr

theorem exec_atlasBegin_emptyRenderSet (he : s.op.rsetEmpty = true) :
    exec .atlasBegin s = .next (faultEntry .emptyRenderSet s) := by
  simp [exec, execAtlasBegin, ha, hv, PackDepth.ofNat?_eq_some.2 hd, hr, he]

variable (he : s.op.rsetEmpty = false)
include he

theorem exec_atlasBegin_renderSetOutsideRange (hs : s.op.rsetInRange = false) :
    exec .atlasBegin s = .next (faultEntry .renderSetOutsideRange s) := by
  simp [exec, execAtlasBegin, ha, hv, PackDepth.ofNat?_eq_some.2 hd, hr, he, hs]

variable (hs : s.op.rsetInRange = true)
include hs

theorem exec_atlasBegin_badGeometry (hg : s.width = 0 ∨ s.height = 0) :
    exec .atlasBegin s = .next (faultEntry .badGeometry s) := by
  simp [exec, execAtlasBegin, ha, hv, PackDepth.ofNat?_eq_some.2 hd, hr, he, hs, hg]

variable (hw : s.width ≠ 0) (hh : s.height ≠ 0)
include hw hh

theorem exec_atlasBegin_overflow
    (h : s.params.bmpCap < s.byteCount.toNat + s.stride * s.height * s.op.nCodes ∨
      s.params.atlasCap < s.padw * s.height * s.op.nCodes) :
    exec .atlasBegin s = .next (faultEntry .bufferOverflow s) := by
  rw [← Nat.zero_add (s.padw * s.height * s.op.nCodes)] at h
  have h := notBothInBounds (b := .bmp) (c := .atlas) h
  simp [exec, execAtlasBegin, ha, hv, PackDepth.ofNat?_eq_some.2 hd, hr, he, hs, hw, hh, h]

theorem exec_atlasBegin_inBounds
    (hbmp : s.byteCount.toNat + s.stride * s.height * s.op.nCodes ≤ s.params.bmpCap)
    (hatlas : s.padw * s.height * s.op.nCodes ≤ s.params.atlasCap) :
    exec .atlasBegin s = .next (complete (openAtlas s)) := by
  rw [← Nat.zero_add (s.padw * s.height * s.op.nCodes)] at hatlas
  have h := bothInBounds (b := .bmp) (c := .atlas) hbmp hatlas
  simp [exec, execAtlasBegin, ha, hv, PackDepth.ofNat?_eq_some.2 hd, hr, he, hs, hw, hh, h]

end atlasBegin

/-- Settles O33: the premises are the checks in their own words, and the effect is `openAtlas`. -/
theorem atlasBeginOpensTheAtlas : Obligations.AtlasBeginOpensTheAtlas := by
  intro s ha hv hd hle h127 he hs hw hh hbmp hatlas
  obtain ⟨d, hd⟩ := mem_packDepths_iff.1 hd
  refine ⟨_, exec_atlasBegin_inBounds ha hv hd ((rangeLegal_iff _).2 ⟨hle, h127⟩)
    ((rsetEmpty_eq_false_iff _).2 he) ((rsetInRange_iff _).2 hs) hw hh hbmp hatlas,
    fun a hlt => get?_write_zeros _ hlt, fun a hge => get?_write_outside _ _ _ _ ?_, rfl⟩
  rw [List.length_replicate, Nat.zero_add]
  exact .inr hge

/-- Settles O34: the checks in order. -/
theorem atlasBeginFaultPriority : Obligations.AtlasBeginFaultPriority := by
  refine fun s => ⟨exec_atlasBegin_of_atlasActive, fun ha => ⟨exec_atlasBegin_noLayout ha, fun hv =>
    ⟨exec_atlasBegin_of_notMem ha hv, fun hd => ?_⟩⟩⟩
  obtain ⟨d, hd⟩ := mem_packDepths_iff.1 hd
  refine ⟨fun hr => exec_atlasBegin_badRange ha hv hd ((rangeLegal_eq_false_iff _).2 hr),
    fun hr => ?_⟩
  have hr := (rangeLegal_iff _).2 hr
  refine ⟨fun he => exec_atlasBegin_emptyRenderSet ha hv hd hr ((rsetEmpty_iff _).2 he),
    fun hout => ?_, fun he hs => ?_⟩
  · have ⟨c, hc, hset, _⟩ := hout
    exact exec_atlasBegin_renderSetOutsideRange ha hv hd hr
      ((rsetEmpty_eq_false_iff _).2 ⟨c, hc, hset⟩) ((rsetInRange_eq_false_iff _).2 hout)
  · have he := (rsetEmpty_eq_false_iff _).2 he
    have hs := (rsetInRange_iff _).2 hs
    exact ⟨exec_atlasBegin_badGeometry ha hv hd hr he hs,
      fun hg => exec_atlasBegin_overflow ha hv hd hr he hs hg.1 hg.2⟩

/-! ### ATLAS_END -/

theorem exec_atlasEnd_of_not_atlasActive {s : State} (h : s.status.atlasActive = false) :
    exec .atlasEnd s = .next (faultEntry .sequenceError s) := by
  simp [exec, execAtlasEnd, h]

section atlasEnd
variable {s : State} (ha : s.status.atlasActive = true)
include ha

theorem exec_atlasEnd_too_early (hn : s.nextCode.toNat ≠ s.op.rangeEnd.toNat + 1) :
    exec .atlasEnd s = .next (faultEntry .sequenceError s) := by
  simp [exec, execAtlasEnd, ha, hn]

theorem exec_atlasEnd_after_last (hn : s.nextCode.toNat = s.op.rangeEnd.toNat + 1) :
    exec .atlasEnd s = .next (complete (closeAtlas s)) := by
  simp [exec, execAtlasEnd, ha, hn]

/-- A complete atlas is STRIDE * H * N bytes (R131). -/
theorem bytes_of_complete_atlas (h : Inv s) (hn : s.nextCode.toNat = s.op.rangeEnd.toNat + 1) :
    s.byteCount.toNat - s.atlasBase.toNat = s.stride * s.height * s.op.nCodes := by
  have hle := ((rangeLegal_iff _).1 (h.atlasOpen ha).range).1
  have hindex : s.cellIndex = s.op.nCodes := by
    rw [State.cellIndex, hn, OperandRegs.nCodes]
    omega
  rw [(h.atlasOpen ha).filled, Nat.add_sub_cancel_left, hindex, Nat.mul_comm, State.cellBytes]

end atlasEnd

/-- Settles O40: after the last cell ATLAS_END is `closeAtlas`, and all N cells have been emitted. -/
theorem atlasEndClosesACompleteAtlas : Obligations.AtlasEndClosesACompleteAtlas :=
  fun _ ha hn => ⟨exec_atlasEnd_after_last ha hn, fun h => bytes_of_complete_atlas ha h hn⟩

end Sys2Proof.Machine
end

section
/-! CELL (42_atlas.md R125 to R128): its faults, its completions, what one completion leaves, and that it
stays inside its own cell. -/

namespace Sys2Proof.Machine

/-! ### The faults and the two arms -/

theorem exec_cell_of_not_atlasActive {s : State} (h : s.status.atlasActive = false) :
    exec .cell s = .next (faultEntry .sequenceError s) := by
  simp [exec, execCell, h]

section cell
variable {s : State} (ha : s.status.atlasActive = true)
include ha

theorem exec_cell_after_last (hn : s.op.rangeEnd.toNat < s.nextCode.toNat) :
    exec .cell s = .next (faultEntry .sequenceError s) := by
  simp [exec, execCell, ha, hn]

variable (hn : s.nextCode.toNat ≤ s.op.rangeEnd.toNat)
include hn

theorem exec_cell_missing (hr : s.op.rset s.nextCode.toNat = false) :
    exec .cell s = .next (complete (emitMissing s)) := by
  simp [exec, execCell, ha, Nat.not_lt.2 hn, hr]

variable (hr : s.op.rset s.nextCode.toNat = true)
include hr

theorem exec_cell_overflow (h : s.params.srcCap < s.op.srcOff.toNat + s.sampleCount) :
    exec .cell s = .next (faultEntry .bufferOverflow s) := by
  simp [exec, execCell, ha, Nat.not_lt.2 hn, hr, inBounds_eq_false (b := .src) h]

variable (hsrc : s.op.srcOff.toNat + s.sampleCount ≤ s.params.srcCap)
include hsrc

theorem exec_cell_withoutPacker (hd : s.layout.layoutBd.toNat ∉ [4, 8]) :
    exec .cell s = .fault .cellWithoutPacker := by
  simp [exec, execCell, ha, Nat.not_lt.2 hn, hr, inBounds_eq_true (b := .src) hsrc,
    packDepth_ofNat?_of_notMem hd]

theorem exec_cell_rendered {d : PackDepth} (hd : s.layout.layoutBd.toNat = d.depth.bits) :
    exec .cell s = .next (complete (emitRendered d
      (memRead .src s.op.srcOff.toNat s.sampleCount s) (drawn s.sampleCount s))) := by
  simp [exec, execCell, ha, Nat.not_lt.2 hn, hr, inBounds_eq_true (b := .src) hsrc,
    PackDepth.ofNat?_eq_some.2 hd]

end cell

/-- Settles O38: the checks in order. -/
theorem cellAndAtlasEndFaults : Obligations.CellAndAtlasEndFaults :=
  fun _ => ⟨fun ha => ⟨exec_cell_of_not_atlasActive ha, exec_atlasEnd_of_not_atlasActive ha⟩,
    fun ha => ⟨exec_cell_after_last ha,
      fun hn hr => ⟨exec_cell_overflow ha hn hr, exec_cell_withoutPacker ha hn hr⟩,
      exec_atlasEnd_too_early ha⟩⟩

/-! ### What a completion leaves -/

/-- `t` is the completion of a CELL that appended `v` to BMP in state `s` and left the preview `m`, at
most some draws used up. -/
structure Emitted (s : State) (v : List Byte) (m : Memory) (t : State) : Prop where
  count : t.byteCount.toNat = s.byteCount.toNat + s.cellBytes
  inside : ∀ i, i < s.cellBytes → t.bmp.get? (s.byteCount.toNat + i) = v[i]?
  outside : ∀ a, a < s.byteCount.toNat ∨ s.byteCount.toNat + s.cellBytes ≤ a →
    t.bmp.get? a = s.bmp.get? a
  preview : t.atlas = m
  next : t.nextCode.toNat = s.nextCode.toNat + 1
  frame : t = { s with
    bmp := t.bmp, byteCount := t.byteCount, atlas := t.atlas, nextCode := t.nextCode,
    draws := t.draws, status := { s.status with busy := false },
    irqPend := { s.irqPend with done := true } }

section active
variable {s : State} (h : Inv s) (ha : s.status.atlasActive = true)
  (hn : s.nextCode.toNat ≤ s.op.rangeEnd.toNat)
include h ha hn

theorem emitted_complete {v : List Byte} {m : Memory} (hw : CellWrite s v m) (k : Nat) :
    Emitted s v m (complete (emitCell v m (drawn k s))) where
  count := byteCount_emitCell (s := s) h ha hn hw
  inside _ hi := get?_write_add s.bmp s.byteCount.toNat (hw.length.symm ▸ hi)
  outside a hout := get?_write_outside s.bmp s.byteCount.toNat v a (hw.length.symm ▸ hout)
  preview := rfl
  next := toNat_advanceCode (s := s) h ha hn
  frame := rfl

omit hn in
/-- An open atlas has a packer. -/
theorem exists_packDepth_of_active :
    ∃ d : PackDepth, s.layout.layoutBd.toNat = d.depth.bits :=
  exists_packDepth h.layout (h.atlasOpen ha).layout.1 (h.atlasOpen ha).layout.2

/-- In an open atlas, before the last code and with the glyph in SRC, CELL completes. -/
theorem exists_cell_effect (hsrc : s.op.srcOff.toNat + s.sampleCount ≤ s.params.srcCap) :
    ∃ u, Effect s .cell u ∧ exec .cell s = .next (complete u) := by
  cases hr : s.op.rset s.nextCode.toNat with
  | false => exact ⟨_, .missing ha hn hr, exec_cell_missing ha hn hr⟩
  | true =>
    obtain ⟨d, hd⟩ := exists_packDepth_of_active h ha
    exact ⟨_, .rendered d hd ha hn hr hsrc, exec_cell_rendered ha hn hr hsrc hd⟩

/-- Row r, column c of the cell of NEXT_CODE lies in the cell's part of the preview (R127). -/
theorem cellPlace_bounds {r c : Nat} (hr : r < s.height) (hc : c < s.padw) :
    s.cellIndex * s.height * s.padw ≤ cellPlace s r c ∧
      cellPlace s r c < (s.cellIndex + 1) * s.height * s.padw ∧
      cellPlace s r c < s.params.atlasCap := by
  have hplace := place_lt hr hc
  have hfits := cell_fits_atlas h ha hn
  rw [Nat.mul_comm s.padw] at hplace
  rw [cellPlace_eq, Nat.succ_mul, Nat.add_mul]
  omega

end active

/-- Settles O35: the completion appends the packed image of the samples read and composites them. -/
theorem renderedCellIsPackedAndComposited : Obligations.RenderedCellIsPackedAndComposited := by
  intro s x h ha hn hr hsrc hx
  have hvalid := (h.atlasOpen ha).layout.1
  obtain ⟨d, hd⟩ := exists_packDepth_of_active h ha
  have hexec := exec_cell_rendered ha hn hr hsrc hd
  rw [emitRendered_drawn] at hexec
  generalize hX : memRead .src s.op.srcOff.toNat s.sampleCount s = X at hexec
  have hlen : X.length = s.sampleCount := hX ▸ length_memRead _ _ _ _
  have hget : ∀ i, i < s.sampleCount → X[i]? = some (x i) :=
    fun i hi => hX ▸ getElem?_memRead_written (b := .src) hi (hx i hi)
  have hw := cellWrite_rendered h ha hn hr hd hlen
  have hem := emitted_complete h ha hn hw s.sampleCount
  refine ⟨_, hexec, hem.count, fun r j hr hj => ?_, hem.outside, fun r c hr hc => ?_,
    fun a hout => hw.outside a hout, hem.next, hem.frame⟩
  · rw [Nat.add_assoc]
    refine (congrArg (Option.map BitVec.toNat) (hem.inside _ (place_lt hr hj))).trans ?_
    exact getElem?_packImage_layout h.layout hvalid hd hlen hget hr hj
  · refine Eq.trans ?_ (hget _ (place_lt hr hc))
    exact (congrArg _ (cellPlace_eq s r c)).trans
      (get?_previewRows_inside (width_le_padw h.layout hvalid hd) hlen hr hc)

/-- Settles O36: the completion appends zeros, and reads and composites nothing. -/
theorem missingCellIsAllZero : Obligations.MissingCellIsAllZero := by
  intro s h ha hn hr
  have hw := cellWrite_missing h
  have hem := emitted_complete h ha hn hw 0
  have hexec := exec_cell_missing ha hn hr
  rw [emitMissing_eq] at hexec
  refine ⟨_, hexec, hem.count, fun j hj => ?_, hem.outside, hem.next, rfl⟩
  exact (hem.inside j hj).trans ((hw.missing hr).1 j hj)

/-! ### The bounds -/

/-- A CELL with its glyph in SRC raises no fault but SequenceError. -/
theorem exec_cell_inBounds_cases {s : State} (h : Inv s)
    (hsrc : s.op.srcOff.toNat + s.sampleCount ≤ s.params.srcCap) :
    exec .cell s = .next (faultEntry .sequenceError s) ∨
      ∃ u, Effect s .cell u ∧ exec .cell s = .next (complete u) := by
  cases ha : s.status.atlasActive with
  | false => exact .inl (exec_cell_of_not_atlasActive ha)
  | true =>
    by_cases hn : s.nextCode.toNat ≤ s.op.rangeEnd.toNat
    · exact .inr (exists_cell_effect h ha hn hsrc)
    · exact .inl (exec_cell_after_last ha (Nat.lt_of_not_le hn))

/-- A completion records no ERRCODE, so BufferOverflow is CELL's own fault. -/
theorem overflow_of_exec_cell {s t : State} (h : Inv s) (herr : s.status.err = false)
    (hexec : exec .cell s = .next t) (hcode : t.status.errCode = 0x08) :
    s.params.srcCap < s.op.srcOff.toNat + s.sampleCount := by
  refine Nat.lt_of_not_le fun hsrc => ?_
  obtain hfault | ⟨u, hu, hdone⟩ := exec_cell_inBounds_cases h hsrc
  · cases hfault.symm.trans hexec
    exact absurd hcode (by decide : ¬(0x09 : Byte) = 0x08)
  · cases hdone.symm.trans hexec
    have huinv := inv_complete (inv_cell h hu)
    have huerr : (complete u).status.err = false := err_eq_false_of_effect (u := u) herr hu
    rw [(huinv.faultRecord.1 huerr).1] at hcode
    cases hcode

/-- A completing CELL changes only bytes of its own cell (R125, R127, R128). -/
theorem changes_of_cell_effect {s u : State} (h : Inv s) (hu : Effect s .cell u) :
    (∀ a, u.bmp.get? a ≠ s.bmp.get? a →
      s.byteCount.toNat ≤ a ∧ a < s.byteCount.toNat + s.cellBytes ∧ a < s.params.bmpCap) ∧
    ∀ a, u.atlas.get? a ≠ s.atlas.get? a →
      ∃ r c, r < s.height ∧ c < s.padw ∧ a = cellPlace s r c := by
  obtain ⟨v, m, k, hw, rfl⟩ := exists_cellWrite h hu
  obtain ⟨ha, hn⟩ := active_of_cell hu
  have hem := emitted_complete h ha hn hw k
  have hfits := cell_fits_bmp h ha hn
  obtain ⟨d, hd⟩ := exists_packDepth_of_active h ha
  have hwp := width_le_padw h.layout (h.atlasOpen ha).layout.1 hd
  constructor
  · intro a hne
    by_contra hout
    exact hne (hem.outside a (by omega))
  · intro a hne
    by_contra hout
    exact hne (hw.outside a fun r c hr hc heq => hout ⟨r, c, hr, Nat.lt_of_lt_of_le hc hwp, heq⟩)

/-- Settles O39: a fault changes no byte; a completion changes its own cell, which `Inv` keeps inside
both buffers. -/
theorem cellsNeverLeaveTheirBuffers : Obligations.CellsNeverLeaveTheirBuffers := by
  refine ⟨fun s t h hexec => ⟨fun a hne => ?_, fun a hne => ?_,
    fun herr hcode => overflow_of_exec_cell h herr hexec hcode⟩, fun s h ha hn =>
    ⟨cell_fits_bmp h ha hn, fun r c hr hc => (cellPlace_bounds h ha hn hr hc).2.2⟩⟩
  all_goals obtain ⟨c, -, n, rfl⟩ | ⟨u, hu, rfl⟩ := exec_cases hexec
  · exact absurd rfl hne
  · exact (changes_of_cell_effect h hu).1 a hne
  · exact absurd rfl hne
  · obtain ⟨ha, hn⟩ := active_of_cell hu
    obtain ⟨r, c, hr, hc, rfl⟩ := (changes_of_cell_effect h hu).2 a hne
    exact cellPlace_bounds h ha hn hr hc

end Sys2Proof.Machine
end

section
/-! A run of CELLs from a freshly opened atlas (42_atlas.md R125 to R133). -/

namespace Sys2Proof.Machine

/-! ### One cell shown, and kept -/

/-- Cell `c` of the atlas holds the glyph `x`: packed in BMP (R128) and composited in the preview
(R127). -/
def Shows (s : State) (x : Nat → Byte) (c : Nat) : Prop :=
  (∀ r j, r < s.height → j < s.stride →
    (s.bmp.get? (s.atlasBase.toNat + c * s.cellBytes + r * s.stride + j)).map BitVec.toNat =
      some (imageByte s x r j)) ∧
  ∀ r q, r < s.height → q < s.width →
    s.atlas.get? ((c * s.height + r) * s.padw + q) = some (x (r * s.width + q))

/-- The samples of the glyph in SRC are `x`. -/
def GlyphIs (s : State) (x : Nat → Byte) : Prop :=
  ∀ i, i < s.sampleCount → s.src.get? (s.op.srcOff.toNat + i) = some (x i)

/-- A rendered CELL shows the glyph in SRC in the cell of NEXT_CODE. -/
theorem shows_of_cell {s u : State} (h : Inv s) (ha : s.status.atlasActive = true)
    (hn : s.nextCode.toNat ≤ s.op.rangeEnd.toNat) (hr : s.op.rset s.nextCode.toNat = true)
    (hsrc : s.op.srcOff.toNat + s.sampleCount ≤ s.params.srcCap)
    (hexec : exec .cell s = .next u) {x : Nat → Byte} (hx : GlyphIs s x) :
    Shows u x s.cellIndex := by
  obtain ⟨t, ht, -, hbmp, -, hatlas, -, -, hframe⟩ :=
    renderedCellIsPackedAndComposited s x h ha hn hr hsrc hx
  cases ht.symm.trans hexec
  have hfilled := (h.atlasOpen ha).filled
  have hop : u.op = s.op := by rw [hframe]
  have hlayout : u.layout = s.layout := by rw [hframe]
  have hbase : u.atlasBase = s.atlasBase := by rw [hframe]
  simp only [Shows, State.cellBytes, State.width, State.height, State.stride, State.padw, imageByte,
    hop, hlayout, hbase] at *
  rw [hfilled] at hbmp
  exact ⟨hbmp, hatlas⟩

/-- A byte of an earlier cell lies below the cell of NEXT_CODE. -/
theorem earlier_cell_lt {k c n j : Nat} (hc : c < k) (hj : j < n) : c * n + j < k * n := by
  rw [Nat.mul_comm k]
  exact place_lt hc hj

/-- A CELL leaves what the earlier cells show. -/
theorem shows_of_earlier {s u : State} (h : Inv s) (hu : Effect s .cell u) {x : Nat → Byte} {c : Nat}
    (hc : c < s.cellIndex) (hshows : Shows s x c) : Shows u x c := by
  obtain ⟨v, m, k, hw, rfl⟩ := exists_cellWrite h hu
  obtain ⟨ha, hn⟩ := active_of_cell hu
  have hfilled : s.byteCount.toNat = s.atlasBase.toNat + s.cellIndex * (s.stride * s.height) :=
    (h.atlasOpen ha).filled
  obtain ⟨d, hd⟩ := exists_packDepth_of_active h ha
  have hwp := width_le_padw h.layout (h.atlasOpen ha).layout.1 hd
  obtain ⟨hbmp, hatlas⟩ := hshows
  constructor
  · intro r j hr hj
    have hlt : c * (s.stride * s.height) + (r * s.stride + j) < s.cellIndex * (s.stride * s.height) :=
      earlier_cell_lt hc (place_lt (w := s.stride) (h := s.height) hr hj)
    refine Eq.trans (congrArg _ ?_) (hbmp r j hr hj)
    refine get?_write_outside s.bmp s.byteCount.toNat v _ (.inl ?_)
    show s.atlasBase.toNat + c * (s.stride * s.height) + r * s.stride + j < s.byteCount.toNat
    omega
  · intro r q hr hq
    refine (hw.outside _ fun r' q' hr' hq' heq => ?_).trans (hatlas r q hr hq)
    have hrows : c * s.height + r = s.cellIndex * s.height + r' :=
      (row_col_unique (Nat.lt_of_lt_of_le hq hwp) (Nat.lt_of_lt_of_le hq' hwp) heq).1
    exact hc.ne (row_col_unique hr hr' hrows).1

/-! ### The run -/

/-- `k` CELLs from the freshly opened atlas `s` have led to `t`. -/
structure CellsEmitted (s : State) (k : Nat) (t : State) : Prop where
  inv : Inv t
  active : t.status.atlasActive = true
  next : t.nextCode.toNat = s.op.rangeStart.toNat + k
  appends : Appends s t
  shows : ∀ x, GlyphIs s x → ∀ c, c < k → s.op.rset (s.op.rangeStart.toNat + c) = true → Shows t x c
  frame : t = { s with
    bmp := t.bmp, byteCount := t.byteCount, atlas := t.atlas, nextCode := t.nextCode,
    draws := t.draws, status := t.status, irqPend := t.irqPend }

namespace CellsEmitted

variable {s t : State} {k : Nat} (h : CellsEmitted s k t)
include h

theorem params : t.params = s.params := by rw [h.frame]
theorem op : t.op = s.op := by rw [h.frame]
theorem layout : t.layout = s.layout := by rw [h.frame]
theorem atlasBase : t.atlasBase = s.atlasBase := by rw [h.frame]
theorem src : t.src = s.src := by rw [h.frame]

theorem sampleCount : t.sampleCount = s.sampleCount := by
  rw [State.sampleCount, State.width, State.height, h.op, h.layout]
  rfl

theorem glyphIs {x : Nat → Byte} (hx : GlyphIs s x) : GlyphIs t x := by
  unfold GlyphIs
  rw [h.sampleCount, h.src, h.op]
  exact hx

theorem cellIndex : t.cellIndex = k := by
  rw [State.cellIndex, h.next, h.op, Nat.add_sub_cancel_left]

end CellsEmitted

theorem appends_trans {s t u : State} (h : Appends s t) (h' : Appends t u) : Appends s u := by
  obtain ⟨hle, hbytes⟩ := h
  obtain ⟨hle', hbytes'⟩ := h'
  exact ⟨Nat.le_trans hle hle',
    fun a ha => (hbytes' a (Nat.lt_of_lt_of_le ha hle)).trans (hbytes a ha)⟩

theorem cellsEmitted_zero {s : State} (h : Inv s) (ha : s.status.atlasActive = true)
    (hstart : s.nextCode = s.op.rangeStart) : CellsEmitted s 0 s :=
  ⟨h, ha, by rw [hstart, Nat.add_zero], appends_of_eq rfl rfl,
    fun _ _ c hc => absurd hc (Nat.not_lt_zero c), rfl⟩

/-- The next CELL of a run. -/
theorem cellsEmitted_succ {s t : State} {k : Nat} (h : CellsEmitted s k t)
    (hsrc : s.op.srcOff.toNat + s.sampleCount ≤ s.params.srcCap) (hk : k < s.op.nCodes) :
    ∃ u, exec .cell t = .next u ∧ CellsEmitted s (k + 1) u := by
  have hn : t.nextCode.toNat ≤ t.op.rangeEnd.toNat := by
    have hle := ((rangeLegal_iff _).1 (h.inv.atlasOpen h.active).range).1
    rw [h.op] at hle
    rw [h.next, h.op]
    unfold OperandRegs.nCodes at hk
    omega
  have htsrc : t.op.srcOff.toNat + t.sampleCount ≤ t.params.srcCap := by
    rw [h.op, h.sampleCount, h.params]
    exact hsrc
  obtain ⟨u, hu, hexec⟩ := exists_cell_effect h.inv h.active hn htsrc
  obtain ⟨v, m, n, hw, hemit⟩ := exists_cellWrite h.inv hu
  have hem : Emitted t v m (complete u) := hemit ▸ emitted_complete h.inv h.active hn hw n
  refine ⟨_, hexec, inv_complete (inv_cell h.inv hu), ?_, ?_,
    appends_trans h.appends (appends_cell (u := u) h.inv hu), fun x hx c hc hr => ?_, ?_⟩
  · rw [hem.frame]
    exact h.active
  · rw [hem.next, h.next, Nat.add_assoc]
  · obtain hc | rfl := Nat.lt_succ_iff_lt_or_eq.1 hc
    · have hlt : c < t.cellIndex := h.cellIndex.symm ▸ hc
      exact shows_of_earlier h.inv hu hlt (h.shows x hx c hc hr)
    · have hcode : t.op.rset t.nextCode.toNat = true := by rw [h.op, h.next]; exact hr
      have := shows_of_cell h.inv h.active hn hcode htsrc hexec (h.glyphIs hx)
      rwa [h.cellIndex] at this
  · rw [hem.frame, h.frame]

/-- One more execution after `k`. -/
theorem repeatExec_succ {i : Instr} {k : Nat} {s t : State} (h : repeatExec i k s = .next t) :
    repeatExec i (k + 1) s = exec i t := by
  induction k generalizing s with
  | zero =>
    cases h
    rw [repeatExec]
    cases exec i t <;> rfl
  | succ k ih =>
    rw [repeatExec] at h ⊢
    cases hs : exec i s with
    | next s' => exact ih (by simpa only [hs] using h)
    | fault f => simp [hs] at h
    | refused r => simp [hs] at h

theorem exists_cellsEmitted {s : State} (h : Inv s) (ha : s.status.atlasActive = true)
    (hstart : s.nextCode = s.op.rangeStart)
    (hsrc : s.op.srcOff.toNat + s.sampleCount ≤ s.params.srcCap) {k : Nat} (hk : k ≤ s.op.nCodes) :
    ∃ t, repeatExec .cell k s = .next t ∧ CellsEmitted s k t := by
  induction k with
  | zero => exact ⟨s, rfl, cellsEmitted_zero h ha hstart⟩
  | succ k ih =>
    obtain ⟨t, hrun, ht⟩ := ih (Nat.le_of_succ_le hk)
    obtain ⟨u, hexec, hu⟩ := cellsEmitted_succ ht hsrc hk
    exact ⟨u, (repeatExec_succ hrun).trans hexec, hu⟩

/-! ### What the run has emitted -/

/-- A freshly opened atlas begins at BYTE_COUNT. -/
theorem atlasBase_eq_byteCount {s : State} (h : Inv s) (ha : s.status.atlasActive = true)
    (hstart : s.nextCode = s.op.rangeStart) : s.atlasBase = s.byteCount := by
  have hfilled := (h.atlasOpen ha).filled
  rw [(cellsEmitted_zero h ha hstart).cellIndex, Nat.zero_mul, Nat.add_zero] at hfilled
  exact BitVec.eq_of_toNat_eq hfilled.symm

/-- An open atlas has no error recorded (60_exceptions.md R165). -/
theorem err_eq_false_of_active {s : State} (h : Inv s) (ha : s.status.atlasActive = true) :
    s.status.err = false := by
  cases herr : s.status.err with
  | false => rfl
  | true =>
    have := (h.faultRecord.2 herr).2.1
    rw [ha] at this
    cases this

namespace CellsEmitted

variable {s t : State} {k : Nat} (h : CellsEmitted s k t)
include h

theorem cellBytes : t.cellBytes = s.stride * s.height := by
  rw [State.cellBytes, State.stride, State.height, h.op, h.layout]
  rfl

/-- After all N codes, ATLAS_END closes an atlas of STRIDE * H * N bytes (R131). -/
theorem atlasEnd (hk : k = s.op.nCodes) :
    ∃ u, exec .atlasEnd t = .next u ∧ u.status.atlasDone = true ∧ u.status.err = false ∧
      u.byteCount.toNat - u.atlasBase.toNat = s.stride * s.height * k := by
  have hle := ((rangeLegal_iff _).1 (h.inv.atlasOpen h.active).range).1
  have hlast : t.nextCode.toNat = t.op.rangeEnd.toNat + 1 := by
    rw [h.op] at hle ⊢
    rw [h.next, hk, OperandRegs.nCodes]
    omega
  refine ⟨_, exec_atlasEnd_after_last h.active hlast, rfl,
    err_eq_false_of_active (s := t) h.inv h.active, ?_⟩
  have hbytes := bytes_of_complete_atlas h.active h.inv hlast
  have hcell : t.stride * t.height = s.stride * s.height := h.cellBytes
  rw [hcell, h.op, ← hk] at hbytes
  exact hbytes

end CellsEmitted

/-- Settles O41: the run keeps the invariant, which places the cells and zeroes the missing ones; each
rendered CELL shows its glyph, and the later ones leave it. -/
theorem anAtlasRunEmitsEveryCellInOrder : Obligations.AnAtlasRunEmitsEveryCellInOrder := by
  intro s k h ha hstart hsrc hk
  obtain ⟨t, hrun, ht⟩ := exists_cellsEmitted h ha hstart hsrc hk
  have hopen := ht.inv.atlasOpen ht.active
  have hbase : t.atlasBase = s.byteCount := ht.atlasBase.trans (atlasBase_eq_byteCount h ha hstart)
  have hcell := ht.cellBytes
  refine ⟨t, hrun, ht.active, ht.op, ht.layout, hbase, ht.next, ?_, ht.appends.2,
    fun c j hc hr hj => ?_, fun x hx c hc hr => ?_, ht.atlasEnd⟩
  · rw [hopen.filled, hbase, ht.cellIndex, hcell]
  · have := hopen.missing c j (ht.cellIndex.symm ▸ hc) (by rwa [ht.op]) (hcell.symm ▸ hj)
    rwa [hbase, hcell] at this
  · have := ht.shows x hx c hc hr
    simp only [Shows, hcell, State.width, State.height, State.stride, State.padw, imageByte,
      ht.op, ht.layout, hbase] at this
    exact this

end Sys2Proof.Machine
end

section
/-! METRICS (43_metrics.md R140 to R142): its faults in order, and its table. -/

namespace Sys2Proof.Machine

theorem exec_metrics_noLayout {s : State} (hv : s.status.layoutValid = false) :
    exec .metrics s = .next (faultEntry .noLayout s) := by
  simp [exec, execMetrics, hv]

section metrics
variable {s : State} (hv : s.status.layoutValid = true)
include hv

theorem exec_metrics_noMatchingLayout (hf : s.status.fmtValid = false) :
    exec .metrics s = .next (faultEntry .noMatchingLayout s) := by
  simp [exec, execMetrics, hv, hf]

variable (hf : s.status.fmtValid = true)
include hf

theorem exec_metrics_badRange (hr : s.op.rangeLegal = false) :
    exec .metrics s = .next (faultEntry .badRange s) := by
  simp [exec, execMetrics, hv, hf, hr]

variable (hr : s.op.rangeLegal = true)
include hr

theorem exec_metrics_emptyRenderSet (he : s.op.rsetEmpty = true) :
    exec .metrics s = .next (faultEntry .emptyRenderSet s) := by
  simp [exec, execMetrics, hv, hf, hr, he]

variable (he : s.op.rsetEmpty = false)
include he

theorem exec_metrics_renderSetOutsideRange (hs : s.op.rsetInRange = false) :
    exec .metrics s = .next (faultEntry .renderSetOutsideRange s) := by
  simp [exec, execMetrics, hv, hf, hr, he, hs]

theorem exec_metrics_completes (hs : s.op.rsetInRange = true) :
    exec .metrics s = .next (complete (emitMetrics s)) := by
  simp [exec, execMetrics, hv, hf, hr, he, hs]

end metrics

/-- Settles O43: the checks in order. -/
theorem metricsFaultPriority : Obligations.MetricsFaultPriority := by
  refine fun s => ⟨exec_metrics_noLayout, fun hv => ⟨exec_metrics_noMatchingLayout hv, fun hf =>
    ⟨fun hr => exec_metrics_badRange hv hf ((rangeLegal_eq_false_iff _).2 hr), fun hr => ?_⟩⟩⟩
  have hr := (rangeLegal_iff _).2 hr
  refine ⟨fun he => exec_metrics_emptyRenderSet hv hf hr ((rsetEmpty_iff _).2 he), fun hout => ?_⟩
  have ⟨c, hc, hset, _⟩ := hout
  exact exec_metrics_renderSetOutsideRange hv hf hr ((rsetEmpty_eq_false_iff _).2 ⟨c, hc, hset⟩)
    ((rsetInRange_eq_false_iff _).2 hout)

/-- Byte i of the height field (R142). -/
theorem toNat_height_byte (s : State) (i : Nat) :
    ((s.op.cfgHeight.setWidth 32).extractLsb' (8 * i) 8).toNat = s.height / 256 ^ i % 256 := by
  have hlt : s.op.cfgHeight.toNat < 2 ^ 32 := by have := s.op.cfgHeight.isLt; omega
  have hpow : 2 ^ (8 * i) = 256 ^ i := Nat.pow_mul 2 8 i
  rw [BitVec.extractLsb'_toNat, BitVec.toNat_setWidth, Nat.mod_eq_of_lt hlt,
    Nat.shiftRight_eq_div_pow, hpow]
  rfl

/-- Settles O42: one write of the table, of which each field is a little-endian word. -/
theorem metricsBuildsTheTable : Obligations.MetricsBuildsTheTable := by
  refine ⟨fun o c hc => rset_eq_bit o hc, fun s hv hf hle h127 he hs => ?_⟩
  refine ⟨_, exec_metrics_completes hv hf ((rangeLegal_iff _).2 ⟨hle, h127⟩)
    ((rsetEmpty_eq_false_iff _).2 he) ((rsetInRange_iff _).2 hs), fun c hc => ?_, fun i hi => ?_,
    fun a ha => get?_write_outside _ _ _ _ (.inr (by rw [length_metricsTable]; omega)), rfl⟩
  · exact (get?_met_emitMetrics s (by omega)).trans (metricsTable_width s hc)
  · obtain ⟨hfmt, hstride, hpadw, hheight, hzero⟩ := get?_met_fields s hi
    rw [getElem?_le32 _ hi] at hfmt hstride hpadw hheight
    refine ⟨hfmt, hstride, hpadw, ?_, hzero⟩
    rw [complete_met, hheight, Option.map_some, toNat_height_byte]

end Sys2Proof.Machine
end

section
/-! The words that decode, and those that can complete (30_encoding.md R77). -/

namespace Sys2Proof.Machine

/-- The commands without a depth. -/
def fixedCommands : List Instr := [.nop, .clear, .bitmap, .atlasBegin, .cell, .atlasEnd, .metrics]

/-- The commands with each depth of the D field. -/
def depthCommands : List Instr := (List.range 16).flatMap fun d => [.layout d, .quant d, .pack d]

/-- The commands with a depth that they accept. -/
def acceptedCommands : List Instr :=
  [.layout 1, .layout 4, .layout 8, .quant 1, .quant 4, .quant 8, .pack 4, .pack 8]

theorem wf_iff_mem {i : Instr} : i.wf = true ↔ i ∈ fixedCommands ++ depthCommands := by
  cases i <;> simp [Instr.wf, fixedCommands, depthCommands]

/-- The words that decode are those of the commands with an encoding. -/
theorem decodes_iff_mem {w : Word} :
    (∃ i, decode w = .ok i) ↔ w ∈ (fixedCommands ++ depthCommands).map encode := by
  simp only [decode_eq_ok_iff, wf_iff_mem, List.mem_map]

/-- A command that completes has no depth, or accepts its own. -/
theorem mem_of_effect {s u : State} {i : Instr} (h : Effect s i u) :
    i ∈ fixedCommands ++ acceptedCommands := by
  cases h with
  | layout d _ | quant d _ _ | pack d _ _ _ => cases d <;> decide
  | _ => decide

/-- A state in which each command can complete: a 4-bit layout of one pixel, no data, codes 0 and 1 of
which 1 is rendered; for CELL an open atlas before code 0, for ATLAS_END one after code 1. -/
def readyState (i : Instr) : State :=
  { State.reset with
    cmdLatch := encode i
    status := ⟨true, false, true, true, i == .cell || i == .atlasEnd, false, false, 0⟩
    op := { State.reset.op with cfgHeight := 1, rangeEnd := 1, rset0 := 2 }
    layout := ⟨2, 1, 2, 4, 1⟩
    nextCode := if i = .atlasEnd then 2 else 0 }

theorem exec_readyState {i : Instr} (h : i ∈ fixedCommands ++ acceptedCommands) :
    ∃ t, exec i (readyState i) = .next t ∧ t.status.err = false := by
  simp only [fixedCommands, acceptedCommands, List.cons_append, List.nil_append, List.mem_cons,
    List.not_mem_nil, or_false] at h
  obtain rfl | rfl | rfl | rfl | rfl | rfl | rfl | rfl | rfl | rfl | rfl | rfl | rfl | rfl | rfl := h
  all_goals exact ⟨_, rfl, rfl⟩

/-- The words that can complete are those of the commands that accept their depth. -/
theorem completes_iff_mem {w : Word} :
    (∃ s t, s.cmdLatch = w ∧ s.status.err = false ∧ engineStep s = .next t ∧
        t.status.err = false) ↔ w ∈ (fixedCommands ++ acceptedCommands).map encode := by
  constructor
  · rintro ⟨s, t, rfl, herr, hstep, ht⟩
    cases hd : decode s.cmdLatch with
    | error e =>
      cases (engineStep_of_decode_error herr ⟨e, hd⟩).symm.trans hstep
      cases ht
    | ok i =>
      obtain ⟨u, hu, -⟩ := effect_of_exec ((engineStep_of_decode (.inl herr) hd).symm.trans hstep) ht
      exact List.mem_map.2 ⟨i, mem_of_effect hu, encode_of_decode hd⟩
  · intro hw
    obtain ⟨i, hi, rfl⟩ := List.mem_map.1 hw
    have hwf : ∀ i ∈ fixedCommands ++ acceptedCommands, i.wf = true := by decide
    have hd : decode (readyState i).cmdLatch = .ok i := decode_encode (hwf i hi)
    obtain ⟨t, hexec, ht⟩ := exec_readyState hi
    exact ⟨readyState i, t, rfl, rfl, (engineStep_of_decode (.inl rfl) hd).trans hexec, ht⟩

/-- Settles O3: the words are those of the commands with an encoding, and of the commands that accept
their depth. -/
theorem fiftyFiveWordsDecodeAndFifteenComplete :
    Obligations.FiftyFiveWordsDecodeAndFifteenComplete := by
  refine ⟨_, _, _, rfl, rfl, rfl, by decide, by decide, by decide, by decide, fun w => ?_,
    fun w => ?_⟩
  · exact decodes_iff_mem
  · exact completes_iff_mem

end Sys2Proof.Machine
end

section
/-! Reads and writes of the register window (10_state.md R22 to R39, 20_memory.md R52, R57): what a read
returns, what a write stores, and what each leaves. -/

namespace Sys2Proof.Machine

/-! ### Reads -/

/-- Settles O60: each offset is its register's. -/
theorem hostReadsReturnTheRegisters : Obligations.HostReadsReturnTheRegisters := by
  intro s
  exact ⟨hostRead_regOffset .cmd s, hostRead_regOffset .errCmd s, hostRead_regOffset .irqEn s,
    hostRead_regOffset .irqPend s, hostRead_regOffset .cfgWidth s, hostRead_regOffset .cfgHeight s,
    hostRead_regOffset .cfgAdvance s, hostRead_regOffset .range s, hostRead_regOffset .rset0 s,
    hostRead_regOffset .rset1 s, hostRead_regOffset .rset2 s, hostRead_regOffset .rset3 s,
    hostRead_regOffset .srcOff s, hostRead_regOffset .idxOff s, hostRead_regOffset .len s,
    hostRead_regOffset .padw s, hostRead_regOffset .stride s, hostRead_regOffset .fmt s,
    hostRead_regOffset .layoutBd s, hostRead_regOffset .layoutWidth s,
    hostRead_regOffset .byteCount s, hostRead_regOffset .nextCode s,
    hostRead_regOffset .atlasBase s⟩

/-- Settles O54: the word read is `statusWord`, whose bits are the fields. -/
theorem statusReadsItsFields : Obligations.StatusReadsItsFields :=
  fun s => ⟨statusWord s.status, hostRead_regOffset .status s, statusWord_bits s.status⟩

/-- Settles O59: the bits of the two words read are the enables and the pending bits. -/
theorem interruptOutput : Obligations.InterruptOutput := by
  intro s
  obtain ⟨hen0, hen1, -⟩ := irqWord_bits s.irqEn
  obtain ⟨hpend0, hpend1, -⟩ := irqWord_bits s.irqPend
  rw [readReg, readReg, hen0, hen1, hpend0, hpend1]
  rfl

/-- Settles O49: a read gives the state back, or the state with some draws used up. -/
theorem hostReadsHaveNoSideEffect : Obligations.HostReadsHaveNoSideEffect := by
  intro w off s
  obtain h | ⟨n, h⟩ | ⟨_, _, _, _, ha, -⟩ | ⟨_, _, _, _, _, _, ha, -⟩ :=
    performAt_cases off s (.read w 0)
  · have h : (hostRead w off s).2 = s := h
    rw [h]
  · have h : (hostRead w off s).2 = drawn n s := h
    rw [h]
    rfl
  all_goals cases ha

/-! ### Offsets that store nothing -/

theorem regOffset_lt (r : Reg) : regOffset r < 0x060 := by
  cases r <;> decide

theorem regAt_eq_none {off : Nat} (h : 0x060 ≤ off) : regAt off = none := by
  cases hreg : regAt off with
  | none => rfl
  | some r =>
    have := regAt_eq_some.1 hreg
    have := regOffset_lt r
    omega

/-- A read-only register ignores a write (R22). -/
theorem writeReg_readOnly {r : Reg} (h : regOffset r ∈ [0x004, 0x008] ∨ 0x040 ≤ regOffset r)
    (v : Word) (s : State) : writeReg v s r = s := by
  cases r with
  | status | errCmd | padw | stride | fmt | layoutBd | layoutWidth | byteCount | nextCode
  | atlasBase => rfl
  | _ => exact absurd h (by decide)

/-- Settles O52: the offset is a read-only register's, or no register's. -/
theorem readOnlyRegistersIgnoreWrites : Obligations.ReadOnlyRegistersIgnoreWrites := by
  intro s v off hoff h4
  refine ⟨fun h => ?_, fun h => ?_⟩
  · rw [hostWrite_register hoff h4]
    cases hreg : regAt off with
    | none => rfl
    | some r =>
      obtain rfl := regAt_eq_some.1 hreg
      rw [Option.map_some, Option.getD_some, writeReg_readOnly h]
  · rw [hostRead_register hoff, if_pos h4, regAt_eq_none h]
    rfl

/-! ### Registers that store -/

/-- The word whose low k bits are 1. -/
def lowMask (k : Nat) : Word := BitVec.ofNat 32 (2 ^ k - 1)

theorem getLsbD_and_lowMask (v : Word) (k : Nat) {i : Nat} (hi : i < 32) :
    (v &&& lowMask k).getLsbD i = (v.getLsbD i && decide (i < k)) := by
  rw [lowMask, BitVec.getLsbD_and, BitVec.getLsbD_ofNat, Nat.testBit_two_pow_sub_one]
  simp [hi]

theorem and_lowMask_32 (v : Word) : v &&& lowMask 32 = v :=
  BitVec.and_allOnes

/-- A field of k bits read back, zero-extended, is the low k bits written (R22). -/
theorem setWidth_setWidth_eq_and (v : Word) (k : Nat) :
    (v.setWidth k).setWidth 32 = v &&& lowMask k := by
  refine BitVec.eq_of_getLsbD_eq fun i hi => ?_
  rw [getLsbD_and_lowMask v k hi, BitVec.getLsbD_setWidth, BitVec.getLsbD_setWidth]
  simp [hi, Bool.and_comm]

/-- IRQ_EN read back (R26). -/
theorem irqWord_enableBits (v : Word) : irqWord (enableBits v) = v &&& lowMask 2 := by
  obtain ⟨h0, h1, h2⟩ := irqWord_bits (enableBits v)
  refine BitVec.eq_of_getLsbD_eq fun i hi => ?_
  rw [getLsbD_and_lowMask v 2 hi]
  match i with
  | 0 => rw [h0]; simp [enableBits]
  | 1 => rw [h1]; simp [enableBits]
  | i + 2 => rw [h2 (i + 2) (by omega)]; simp

/-- RANGE read back (R32). -/
theorem range_extractLsb' (v : Word) :
    (0#16 ++ v.extractLsb' 8 8 ++ v.extractLsb' 0 8 : Word) = v &&& lowMask 16 := by
  refine BitVec.eq_of_getLsbD_eq fun i hi => ?_
  rw [getLsbD_and_lowMask v 16 hi]
  have h : (0#16 ++ v.extractLsb' 8 8 ++ v.extractLsb' 0 8 : BitVec (16 + 8 + 8)).getLsbD i =
      (v.getLsbD i && decide (i < 16)) := by
    rw [BitVec.getLsbD_append, BitVec.getLsbD_append, BitVec.getLsbD_extractLsb',
      BitVec.getLsbD_extractLsb']
    by_cases h8 : i < 8
    · simp [h8, show i < 16 by omega]
    · simp [h8, show i - 8 < 8 ↔ i < 16 by omega, show 8 + (i - 8) = i by omega, Bool.and_comm]
  exact h

/-- The read-write registers (R26, R28 to R33). -/
def storedRegs : List Reg :=
  [.irqEn, .cfgWidth, .cfgHeight, .cfgAdvance, .range, .rset0, .rset1, .rset2, .rset3, .srcOff,
    .idxOff, .len]

/-- The bits that a read-write register stores. -/
def storedMask : Reg → Word
  | .irqEn => lowMask 2
  | .cfgWidth | .cfgHeight | .range => lowMask 16
  | .cfgAdvance => lowMask 8
  | .rset0 | .rset1 | .rset2 | .rset3 | .srcOff | .idxOff | .len => lowMask 32
  | _ => 0

/-- With no open atlas the locked registers are written like the others (R34). -/
theorem setLockedOp_of_not_atlasActive {s : State} (h : s.status.atlasActive = false)
    (o : OperandRegs) : setLockedOp s o = setOp s o :=
  if_neg (by simp [h])

section stored
variable {r : Reg} (hr : r ∈ storedRegs) (v : Word) (s : State)
include hr

/-- A write that is not locked out stores the register's bits. -/
theorem readReg_writeReg_same (hfree : s.status.atlasActive = false ∨ r ∉ lockedRegs) :
    readReg (writeReg v s r) r = v &&& storedMask r := by
  have hlocked : r ∈ lockedRegs → s.status.atlasActive = false :=
    fun hmem => hfree.resolve_right (not_not_intro hmem)
  cases r with
  | irqEn => exact irqWord_enableBits v
  | cfgWidth => exact setWidth_setWidth_eq_and v 16
  | cfgAdvance => exact setWidth_setWidth_eq_and v 8
  | srcOff | idxOff | len => exact (and_lowMask_32 v).symm
  | cfgHeight =>
    rw [writeReg, setLockedOp_of_not_atlasActive (hlocked (by decide))]
    exact setWidth_setWidth_eq_and v 16
  | range =>
    rw [writeReg, setLockedOp_of_not_atlasActive (hlocked (by decide))]
    exact range_extractLsb' v
  | rset0 | rset1 | rset2 | rset3 =>
    rw [writeReg, setLockedOp_of_not_atlasActive (hlocked (by decide))]
    exact (and_lowMask_32 v).symm
  | _ => exact absurd hr (by decide)

/-- Every other register reads as before: each is a field of its own. -/
theorem readReg_writeReg_of_ne {r' : Reg} (hne : r' ≠ r) :
    readReg (writeReg v s r) r' = readReg s r' := by
  cases r with
  | irqEn | cfgWidth | cfgAdvance | srcOff | idxOff | len =>
    cases r' <;> simp_all [readReg, writeReg]
  | cfgHeight | range | rset0 | rset1 | rset2 | rset3 =>
    rw [writeReg, setLockedOp]
    split
    · rfl
    · cases r' <;> simp_all [readReg]
  | _ => exact absurd hr (by decide)

/-- Nothing but an operand register or IRQ_EN is written. -/
theorem writeReg_frame :
    writeReg v s r = { s with op := (writeReg v s r).op, irqEn := (writeReg v s r).irqEn } := by
  cases r with
  | irqEn | cfgWidth | cfgAdvance | srcOff | idxOff | len => rfl
  | cfgHeight | range | rset0 | rset1 | rset2 | rset3 =>
    rw [writeReg, setLockedOp]
    split <;> rfl
  | _ => exact absurd hr (by decide)

/-- A read at every other offset of the window gives what it gave. -/
theorem hostRead_writeReg_of_ne {off : Nat} (hoff : off < 0x1000) (hne : off ≠ regOffset r) :
    (hostRead .w32 off (writeReg v s r)).1 = (hostRead .w32 off s).1 := by
  rw [hostRead_register hoff, hostRead_register hoff]
  split
  · cases hreg : regAt off with
    | none => rfl
    | some r' =>
      have hr' : r' ≠ r := fun heq => hne (heq ▸ regAt_eq_some.1 hreg)
      rw [Option.map_some, Option.map_some, readReg_writeReg_of_ne hr v s hr']
  · rfl

end stored

/-- Settles O50: each of the offsets is that of a read-write register, with the bits that it stores. -/
theorem registersReadBackTheirStoredBits : Obligations.RegistersReadBackTheirStoredBits := by
  intro s v reg hreg hfree
  obtain ⟨r, hr, rfl⟩ : ∃ r ∈ storedRegs, (regOffset r, storedMask r) = reg := List.mem_map.1 hreg
  have hfree : s.status.atlasActive = false ∨ r ∉ lockedRegs :=
    hfree.imp_right fun hmem hlocked => hmem (List.mem_map_of_mem (f := regOffset) hlocked)
  refine ⟨_, hostWrite_regOffset r v s, ?_, fun off hoff hne => hostRead_writeReg_of_ne hr v s hoff hne,
    writeReg_frame hr v s⟩
  rw [hostRead_regOffset, readReg_writeReg_same hr v s hfree]

end Sys2Proof.Machine
end

section
/-! Accesses as events of the block: latching a command, the reads that complete while BUSY = 1, refused
accesses, and reset (10_state.md R23, R27, R46, 20_memory.md R54, R62, 70_reset_and_hazards.md R190). -/

namespace Sys2Proof.Machine

/-! ### Accesses to registers -/

theorem completeAccess_read (r : Reg) (addr : Nat) (s : State) :
    completeAccess (regOffset r) (.read .w32 addr) s =
      respond (.data (readReg s r)) (popInput s) := by
  rw [completeAccess, performAt, hostRead_regOffset]

theorem completeAccess_write (r : Reg) (addr : Nat) (v : Word) (s : State) :
    completeAccess (regOffset r) (.write .w32 addr v) s =
      respond .done (popInput (writeReg v s r)) := by
  rw [completeAccess, performAt, hostWrite_regOffset]

/-- The registers lie in the aperture. -/
theorem inAperture_register {P : Params} {a : Access} {r : Reg}
    (ha : a.addr = P.blockBase + regOffset r) : InAperture P (.access a) := by
  have := regOffset_lt r
  exact ⟨by omega, by omega⟩

section register
variable {s : State} {r : Reg} {rest : List HostEvent}

/-- A read of a register at the head of the events completes, if BUSY = 0 or R62 lets it. -/
theorem step_of_read
    (hin : s.inputs = .access (.read .w32 (s.params.blockBase + regOffset r)) :: rest)
    (h : s.status.busy = false ∨ completesWhileBusy (regOffset r)
      (.read .w32 (s.params.blockBase + regOffset r)) = true) :
    step s = .next { s with
      inputs := rest, responses := s.responses ++ [.data (readReg s r)] } := by
  have hoff : s.params.blockBase + regOffset r - s.params.blockBase = regOffset r :=
    Nat.add_sub_cancel_left _ _
  rw [step_of_completed hin (inAperture_register rfl) (by rw [Access.addr, hoff]; exact h),
    Access.addr, hoff, completeAccess_read, popInput_eq hin]
  rfl

theorem step_of_write {v : Word}
    (hin : s.inputs = .access (.write .w32 (s.params.blockBase + regOffset r) v) :: rest)
    (h : s.status.busy = false) :
    step s = .next (respond .done (popInput (writeReg v s r))) := by
  have hoff : s.params.blockBase + regOffset r - s.params.blockBase = regOffset r :=
    Nat.add_sub_cancel_left _ _
  rw [step_of_completed hin (inAperture_register rfl) (.inl h), Access.addr, hoff,
    completeAccess_write]

end register

/-- Settles O53: the three accesses are a write and a read of CMD and a write of IRQ_PEND. -/
theorem cmdWritesLatchAndPendWritesClear : Obligations.CmdWritesLatchAndPendWritesClear := by
  refine fun s v rest hb => ⟨fun hin => ?_, fun hin => ?_, fun hin => ?_⟩
  · rw [step_of_write (r := .cmd) hin hb, popInput_eq (s := writeReg v s .cmd) hin]
    rfl
  · exact step_of_read (r := .cmd) hin (.inl hb)
  · rw [step_of_write (r := .irqPend) hin hb, popInput_eq (s := writeReg v s .irqPend) hin]
    rfl

/-- Every access but the two reads of R62 waits for BUSY = 0. -/
theorem completesWhileBusy_eq_false {base : Nat} {a : Access} (hbase : base ≤ a.addr)
    (hstatus : a ≠ .read .w32 (base + 0x004)) (hpend : a ≠ .read .w32 (base + 0x010)) :
    completesWhileBusy (a.addr - base) a = false := by
  cases a with
  | write w addr v => rfl
  | read w addr =>
    have hbase : base ≤ addr := hbase
    rw [← Bool.not_eq_true]
    simp only [completesWhileBusy, Access.addr, regOffset, Bool.and_eq_true, Bool.or_eq_true,
      beq_iff_eq]
    rintro ⟨rfl, hoff | hoff⟩
    · exact hstatus (by rw [show addr = base + 0x004 by omega])
    · exact hpend (by rw [show addr = base + 0x010 by omega])

/-- Settles O46: the two reads complete in place, and every other access leaves the turn to the engine,
whose step touches neither the events nor the responses. -/
theorem otherAccessesAreHeldWhileBusy : Obligations.OtherAccessesAreHeldWhileBusy := by
  intro s a rest hb hin hap
  refine ⟨?_, ?_, fun hstatus hpend => ?_⟩
  · rintro rfl
    exact ⟨(statusWord_bits s.status).1.trans hb, step_of_read (r := .status) hin (.inr rfl)⟩
  · rintro rfl
    exact step_of_read (r := .irqPend) hin (.inr rfl)
  · have hheld := step_of_held hin hap hb (completesWhileBusy_eq_false hap.1 hstatus hpend)
    refine ⟨hheld, fun t ht => ?_⟩
    have ht := hheld.symm.trans ht
    have hsame := sameHostSide_of_engineStep ht
    exact ⟨hsame.inputs, hsame.responses, busy_of_engineStep ht⟩

/-! ### Refused accesses -/

theorem hostRead_busError {w : Width} {off : Nat} {s : State}
    (h : (hostRead w off s).1 = .busError) : (hostRead w off s).2 = s := by
  unfold hostRead at h ⊢
  split at h
  · rfl
  · split at h
    · cases h
    · next hok => rw [if_neg hok]
  · split at h
    · rfl
    · split at h
      · cases h
      · next hok => rw [if_neg hok]

theorem hostWrite_busError {w : Width} {off : Nat} {v : Word} {s : State}
    (h : (hostWrite w off v s).1 = .busError) : (hostWrite w off v s).2 = s := by
  unfold hostWrite at h ⊢
  split at h
  · rfl
  · split at h
    · cases h
    · next hok => rw [if_neg hok]
  · split at h
    · rfl
    · split at h
      · cases h
      · next hok => rw [if_neg hok]

theorem performAt_busError {off : Nat} {s : State} {a : Access}
    (h : (performAt off s a).1 = .busError) : (performAt off s a).2 = s := by
  cases a with
  | read w addr => exact hostRead_busError h
  | write w addr v => exact hostWrite_busError h

/-- An access itself gives no response: `completeAccess` does. -/
theorem responses_performAt (off : Nat) (s : State) (a : Access) :
    (performAt off s a).2.responses = s.responses := by
  obtain h | ⟨n, h⟩ | ⟨_, _, v, r, -, -, h⟩ | ⟨_, _, v, b, k, n, -, -, -, h⟩ :=
    performAt_cases off s a <;> rw [h]
  · rfl
  · cases r
    case cfgHeight | range | rset0 | rset1 | rset2 | rset3 =>
      rw [writeReg, setLockedOp]
      split <;> rfl
    all_goals rfl
  · exact memWrite_responses b k _ s

/-- Settles O47: the last response is the access's own, so it is the bus error. -/
theorem busErrorsChangeNothing : Obligations.BusErrorsChangeNothing := by
  intro s t a rest hb hin hstep hresp
  by_cases hap : InAperture s.params (.access a)
  · cases (step_of_completed hin hap (.inl hb)).symm.trans hstep
    rw [completeAccess, respond_responses, popInput_responses, responses_performAt] at hresp
    have herror := List.head_eq_of_cons_eq (List.append_cancel_left hresp)
    rw [completeAccess, herror, performAt_busError herror, popInput_eq hin]
    rfl
  · cases (step_outside_aperture hin hap).symm.trans hstep

/-! ### Reset -/

theorem readReg_resetBlock (r : Reg) (s : State) : readReg (resetBlock s) r = 0 := by
  cases r with
  | status => exact (by decide : statusWord ⟨false, false, false, false, false, false, false, 0⟩ = 0)
  | irqEn | irqPend => exact (by decide : irqWord ⟨false, false⟩ = 0)
  | range => exact (by decide : (0#16 ++ 0#8 ++ 0#8 : Word) = 0)
  | _ => rfl

/-- Settles O58: the reset state is the one written out, and reads 0 at every register. -/
theorem resetReturnsToIdle : Obligations.ResetReturnsToIdle := by
  refine fun s rest => ⟨fun hin => ⟨_, step_of_reset hin, rfl, fun off hoff h4 => ?_, rfl,
    fun b a => by cases b <;> rfl⟩, fun hin hb => by simp [step, nextTurn, hin, engineTurn, hb]⟩
  rw [hostRead_register hoff, if_pos h4]
  cases regAt off with
  | none => rfl
  | some r => rw [Option.map_some, Option.getD_some, readReg_resetBlock]

end Sys2Proof.Machine
end

section
/-! Accesses to the buffer windows (20_memory.md R51, R53, R55): little-endian values, narrow writes, and
the metrics table (43_metrics.md R141, R142) as the host reads it. -/

namespace Sys2Proof.Machine

/-! ### Little-endian values -/

/-- The value of the n bytes of a word is its low 8n bits (R55). -/
theorem valueOf_bytesOf (n : Nat) (v : Word) : valueOf (bytesOf n v) = v &&& lowMask (8 * n) := by
  refine BitVec.eq_of_getLsbD_eq fun i hi => ?_
  rw [getLsbD_valueOf_bytesOf n v hi, getLsbD_and_lowMask v _ hi, Bool.and_comm]

/-- Bytes that are those of `v`, from an offset of a buffer. -/
def HoldsBytes (s : State) (b : Buffer) (k n : Nat) (v : Word) : Prop :=
  ∀ i, i < n → (s.buf b).get? (k + i) = some (v.extractLsb' (8 * i) 8)

theorem memRead_of_holdsBytes {s : State} {b : Buffer} {k n : Nat} {v : Word}
    (h : HoldsBytes s b k n v) : memRead b k n s = bytesOf n v := by
  have hread := memRead_eq (b := b) (s := s) (k := k) (v := bytesOf n v) fun i hi => by
    rw [length_bytesOf] at hi
    rw [h i hi, getElem?_bytesOf hi]
  rwa [length_bytesOf] at hread

/-- An aligned read of written bytes returns their little-endian value (R53, R55). -/
theorem hostRead_of_holdsBytes {s : State} (hP : s.params.Legal) {b : Buffer} {w : Width} {k n : Nat}
    (hw : widthBytes w = some n) (hk : k % n = 0) (hc : k + n ≤ capacity s.params b) {v : Word}
    (h : HoldsBytes s b k n v) :
    (hostRead w (bufferBase b + k) s).1 = .data (v &&& lowMask (8 * n)) := by
  rw [hostRead_buffer hP hw (widthBytes_pos hw) hk hc, memRead_of_holdsBytes h, valueOf_bytesOf]

/-! ### Writes -/

/-- `t` is `s` after a write of the low `n` bytes of `v` at offset `k` of `b`, and nothing else. -/
structure Stored (s : State) (b : Buffer) (k n : Nat) (v : Word) (t : State) : Prop where
  holds : HoldsBytes t b k n v
  outside : ∀ a, a < k ∨ k + n ≤ a → (t.buf b).get? a = (s.buf b).get? a
  frame : t = s.setBuf b (t.buf b)

/-- An aligned write inside SRC or IDX stores its bytes (R53, R55, R56). -/
theorem hostWrite_stored {s : State} (hP : s.params.Legal) {b : Buffer} (hb : b = .src ∨ b = .idx)
    {w : Width} {k n : Nat} (v : Word) (hw : widthBytes w = some n) (hk : k % n = 0)
    (hc : k + n ≤ capacity s.params b) :
    ∃ t, hostWrite w (bufferBase b + k) v s = (.done, t) ∧ Stored s b k n v t := by
  have hwritable : hostWritable b = true := by obtain rfl | rfl := hb <;> rfl
  refine ⟨_, hostWrite_buffer hP hwritable v hw (widthBytes_pos hw) hk hc,
    fun i hi => ?_, fun a ha => ?_, ?_⟩
  · rw [memWrite, buf_setBuf_same, get?_write_add _ _ (by rwa [length_bytesOf]), getElem?_bytesOf hi]
  · rw [memWrite, buf_setBuf_same, get?_write_outside _ _ _ _ (by rwa [length_bytesOf])]
  · rw [memWrite, buf_setBuf_same]

/-- The bytes above the low `m` of a stored word are the low bytes of the word shifted down. -/
theorem HoldsBytes.shift {s : State} {b : Buffer} {k m n : Nat} {v : Word}
    (h : HoldsBytes s b k (m + n) v) : HoldsBytes s b (k + m) n (v >>> (8 * m)) := by
  intro i hi
  have hbyte : (v >>> (8 * m)).extractLsb' (8 * i) 8 = v.extractLsb' (8 * (m + i)) 8 := by
    refine BitVec.eq_of_getLsbD_eq fun j hj => ?_
    simp [hj, show 8 * m + (8 * i + j) = 8 * (m + i) + j by omega]
  rw [hbyte, Nat.add_assoc]
  exact h (m + i) (by omega)

theorem HoldsBytes.of_le {s : State} {b : Buffer} {k m n : Nat} {v : Word}
    (h : HoldsBytes s b k n v) (hle : m ≤ n) : HoldsBytes s b k m v :=
  fun i hi => h i (by omega)

/-- A word shifted down has nothing above the bits that are left. -/
theorem ushiftRight_and_lowMask (v : Word) {k m : Nat} (h : k + m = 32) :
    v >>> k &&& lowMask m = v >>> k := by
  refine BitVec.eq_of_getLsbD_eq fun i hi => ?_
  rw [getLsbD_and_lowMask _ m hi, BitVec.getLsbD_ushiftRight]
  by_cases him : i < m
  · simp [him]
  · simp [him, BitVec.getLsbD_of_ge v (k + i) (by omega)]

/-- Settles O55: a 32-bit write stores the four bytes of its value, and an aligned read of written bytes
returns their value; the narrower reads are of some of the four. -/
theorem hostByteOrderIsLittleEndian : Obligations.HostByteOrderIsLittleEndian := by
  constructor
  · intro s b k v hb hP hk hc
    obtain ⟨t, ht, hstored⟩ := hostWrite_stored hP hb v (w := .w32) rfl hk hc
    have hparams : t.params = s.params := by rw [hstored.frame, setBuf_params]
    rw [← hparams] at hP hc
    have hall : HoldsBytes t b k 4 v := hstored.holds
    refine ⟨t, ht, hall, hstored.outside, hstored.frame, ?_, ?_, ?_, ?_⟩
    · rw [hostRead_of_holdsBytes hP (n := 4) rfl hk hc hall, and_lowMask_32]
    · exact hostRead_of_holdsBytes hP (n := 2) rfl (by omega) (by omega) (hall.of_le (by omega))
    · have hhigh : HoldsBytes t b (k + 2) 2 (v >>> 16) := hall.shift (m := 2) (n := 2)
      rw [Nat.add_assoc, hostRead_of_holdsBytes hP (n := 2) rfl (by omega) (by omega) hhigh,
        ushiftRight_and_lowMask v (by rfl)]
    · have htop : HoldsBytes t b (k + 3) 1 (v >>> 24) := hall.shift (m := 3) (n := 1)
      rw [Nat.add_assoc, hostRead_of_holdsBytes hP (n := 1) rfl (by omega) (by omega) htop,
        ushiftRight_and_lowMask v (by rfl)]
  · intro s k v hP p hp holds
    obtain ⟨b, rfl⟩ : ∃ b, (s.buf b, bufferBase b, capacity s.params b) = p := by
      simp only [List.mem_cons, List.not_mem_nil, or_false] at hp
      obtain rfl | rfl | rfl | rfl | rfl := hp
      exacts [⟨.met, rfl⟩, ⟨.src, rfl⟩, ⟨.idx, rfl⟩, ⟨.bmp, rfl⟩, ⟨.atlas, rfl⟩]
    refine ⟨fun ⟨hk, hc, h⟩ => ?_, fun ⟨hk, hc, h⟩ => ?_, fun ⟨hk, hc, h⟩ => ?_⟩
    · exact hostRead_of_holdsBytes hP (n := 1) rfl hk hc h
    · exact hostRead_of_holdsBytes hP (n := 2) rfl hk hc h
    · rw [hostRead_of_holdsBytes hP (n := 4) rfl hk hc h, and_lowMask_32]

/-- Settles O56: a narrow write stores as many bytes as it is wide. -/
theorem narrowWritesStoreTheirBytesOnly : Obligations.NarrowWritesStoreTheirBytesOnly := by
  intro s b k v hb hP
  refine ⟨fun hc => ?_, fun hk hc => ?_⟩
  · obtain ⟨t, ht, hstored⟩ := hostWrite_stored hP hb v (w := .w8) rfl (Nat.mod_one k) hc
    exact ⟨t, ht, hstored.holds 0 (by omega), fun a ha => hstored.outside a (by omega), hstored.frame⟩
  · obtain ⟨t, ht, hstored⟩ := hostWrite_stored hP hb v (w := .w16) rfl hk hc
    exact ⟨t, ht, hstored.holds 0 (by omega), hstored.holds 1 (by omega),
      fun a ha ha' => hstored.outside a (by omega), hstored.frame⟩

/-! ### The metrics table -/

/-- The window of MET holds its 148 bytes on every machine (R51). -/
theorem hostRead_met {w : Width} {k n : Nat} (hw : widthBytes w = some n) (hk : k % n = 0)
    (hc : k + n ≤ 148) (s : State) :
    (hostRead w (0x1000 + k) s).1 = .data (valueOf (memRead .met k n s)) := by
  have hn := widthBytes_pos hw
  have hplace : placeAt (0x1000 + k) = .buffer .met k := by
    rw [placeAt, if_neg (by omega), if_pos (by omega), Nat.add_sub_cancel_left]
  simp [hostRead, hplace, hw, bufferAccessOk, hk, inBounds_eq_true (b := .met) hc, readBuffer]

/-- A 32-bit read of a field of MET whose bytes are those of `v`. -/
theorem hostRead_met_field {k : Nat} (hk : k % 4 = 0) (hc : k + 4 ≤ 148) {s : State} {v : Word}
    (h : ∀ i, i < 4 → s.met.get? (k + i) = (le32 v)[i]?) :
    (hostRead .w32 (0x1000 + k) s).1 = .data v := by
  have hread : memRead .met k 4 s = bytesOf 4 v :=
    memRead_of_holdsBytes fun i hi => (h i hi).trans (getElem?_le32 v hi)
  rw [hostRead_met rfl hk hc, hread, valueOf_bytesOf, and_lowMask_32]

/-- An 8-bit read of a written byte of MET. -/
theorem hostRead_met_byte {k : Nat} (hc : k < 148) {s : State} {v : Byte}
    (h : s.met.get? k = some v) : (hostRead .w8 (0x1000 + k) s).1 = .data (v.setWidth 32) := by
  have hread : memRead .met k 1 s = [v] := memRead_eq (v := [v]) fun i hi => by
    obtain rfl : i = 0 := by simpa using hi
    exact h
  rw [hostRead_met rfl (Nat.mod_one k) hc, hread]
  simp [valueOf]

/-- Settles O57: METRICS has completed, so MET holds its table. -/
theorem hostReadsTheMetricsFields : Obligations.HostReadsTheMetricsFields := by
  intro s t _ hexec ht
  obtain ⟨u, hu, rfl⟩ := effect_of_exec hexec ht
  cases hu
  have hfields := fun i hi => get?_met_fields s (i := i) hi
  simp only [imp_and, forall_and] at hfields
  obtain ⟨hfmt, hstride, hpadw, hheight, hzero⟩ := hfields
  refine ⟨fun c hc => ?_, hostRead_met_field (k := 128) rfl (by omega) hfmt,
    hostRead_met_field (k := 132) rfl (by omega) hstride,
    hostRead_met_field (k := 136) rfl (by omega) hpadw, ?_,
    hostRead_met_field (k := 144) rfl (by omega) fun i hi => ?_⟩
  · have hbyte := (get?_met_emitMetrics s (show c < 148 by omega)).trans (metricsTable_width s hc)
    rw [hostRead_met_byte (s := complete (emitMetrics s)) (by omega) hbyte]
    split <;> rfl
  · have hword : BitVec.ofNat 32 s.height = s.op.cfgHeight.setWidth 32 :=
      BitVec.eq_of_toNat_eq (by simp [State.height])
    rw [hword]
    exact hostRead_met_field (k := 140) rfl (by omega) hheight
  · have hzeros : ∀ j, j < 4 → (le32 0)[j]? = some 0 := by decide
    exact (hzero i hi).trans (hzeros i hi).symm

end Sys2Proof.Machine
end
